-- ==== Sys2Proof/Word.lean ====
section
/-! DEFINITION. The hardware's word types. The smallest addressable unit of both address spaces is a
16-bit word (20_memory.md R59); a register offset is 4 bits (10_state.md R34); a colour channel is 8
bits (00_scope.md R9). Bit 0 is the least significant bit of each (00_scope.md R16). -/

namespace Sys2Proof

/-- A register, a command word, a colour or a framebuffer cell: 16 bits (00_scope.md R9). -/
abbrev Word := BitVec 16

/-- A host register offset: 4 bits (10_state.md R34, 30_encoding.md R77). -/
abbrev RegOffset := BitVec 4

/-- A colour channel: 8 bits (00_scope.md R9). -/
abbrev Channel := BitVec 8

/-- An opcode, bits 3:0 of a command word (30_encoding.md R70). -/
abbrev Opcode := BitVec 4

end Sys2Proof
end

