-- ==== Sys2Proof/Config.lean ====
section
/-! DEFINITION. What one built block fixes (00_scope.md R7) and the one value the spec leaves open
(20_memory.md R58). -/

namespace Sys2Proof.Config

/-- The largest width and height a block may be built with (00_scope.md R7). -/
def maxExtent : Nat := 32767

/-- `W` of the instance that `State.reset` names.  The spec leaves `W` open (92_eei_decisions.md D21);
DESIGN CHOICE, log entry 1.  `State.resetOf` is the reset state of a block of any size. -/
def buildWidth : Nat := 4

/-- `H` of the instance that `State.reset` names (DESIGN CHOICE, log entry 1). -/
def buildHeight : Nat := 4

/-- The value the `n`-th display read outside the framebuffer answers.  20_memory.md R58: "The hardware
returns an unspecified 16-bit value"; a FREE VALUE, log entry 8: nothing is known of it. -/
opaque freeWord : Nat → Word

end Sys2Proof.Config
end

