-- ==== Sys2Proof/Syntax.lean ====
section
/-! DEFINITION. The eight commands (30_encoding.md R71), one constructor per row of
spec/opcode_table.json. A command carries no operand and no immediate (R70): every operand comes from
the operand registers. -/

namespace Sys2Proof

/-- The commands of 30_encoding.md R71. -/
inductive Instr where
  /-- `CLEAR`, word 0x0001, 40_framebuffer_color.md R92. -/
  | clear
  /-- `SETCOLOR`, word 0x0002, 40_framebuffer_color.md R93. -/
  | setcolor
  /-- `RSTCOLOR`, word 0x0003, 40_framebuffer_color.md R94. -/
  | rstcolor
  /-- `PACK`, word 0x0004, 40_framebuffer_color.md R96. -/
  | pack
  /-- `PIXEL`, word 0x0005, 41_validate_pixel.md R114. -/
  | pixel
  /-- `LINE`, word 0x0006, 42_line.md R125. -/
  | line
  /-- `RECT`, word 0x0007, 43_rectangle.md R145. -/
  | rect
  /-- `CIRCLE`, word 0x0008, 44_circle.md R155. -/
  | circle
  deriving DecidableEq, Repr

end Sys2Proof
end

