-- ==== Sys2Proof/WellFormed.lean ====
section
/-! DEFINITION. The checks on what is handed to the block: a command, a command word, and the geometry a
block is built with. -/

namespace Sys2Proof

/-- Every command is well formed: it has no field that could be out of range (30_encoding.md R70, R76). -/
def Instr.wf : Instr → Bool
  | .clear => true
  | .setcolor => true
  | .rstcolor => true
  | .pack => true
  | .pixel => true
  | .line => true
  | .rect => true
  | .circle => true

/-- A command word names a command exactly when it is one of `0x0001 .. 0x0008` (30_encoding.md R72). -/
def commandWordWf (w : Word) : Bool := decide (1 ≤ w.toNat ∧ w.toNat ≤ 8)

/-- The geometries a block may be built with: `1 <= W <= 32767` and `1 <= H <= 32767` (00_scope.md R7). -/
def geometryWf (width height : Nat) : Bool :=
  decide (1 ≤ width ∧ width ≤ Config.maxExtent ∧ 1 ≤ height ∧ height ≤ Config.maxExtent)

/-- A display read inside its contract: `0 <= a < SIZE` (20_memory.md R56, R58). -/
def displayIndexWf (width height a : Nat) : Bool := decide (a < width * height)

end Sys2Proof
end

