-- ==== Sys2Proof/Decode.lean ====
section
/-! DEFINITION. Decoding a command word, total on every 16-bit word and rejecting by name, and the encoder
(30_encoding.md R70 to R72). -/

namespace Sys2Proof

/-- Why a word is no command (30_encoding.md R70, R72). -/
inductive DecodeError where
  /-- One of bits 15:4 is set. -/
  | reservedBits
  /-- Bits 15:4 are zero and bits 3:0 are none of the eight opcodes. -/
  | unknownOpcode
  deriving DecidableEq, Repr

/-- The field `rsv`, bits 15:4 (30_encoding.md R70). -/
def rsvField (w : Word) : BitVec 12 := w.extractLsb' 4 12

/-- The field `op`, bits 3:0 (30_encoding.md R70). -/
def opField (w : Word) : Opcode := w.extractLsb' 0 4

/-- The opcode map read from opcode to command (30_encoding.md R71). -/
def ofOpcode (op : Opcode) : Option Instr :=
  match op.toNat with
  | 1 => some .clear
  | 2 => some .setcolor
  | 3 => some .rstcolor
  | 4 => some .pack
  | 5 => some .pixel
  | 6 => some .line
  | 7 => some .rect
  | 8 => some .circle
  | _ => none

/-- Decoding of a command word (30_encoding.md R70): the reserved field first, then the opcode. -/
def decode (w : Word) : Except DecodeError Instr :=
  if rsvField w = 0 then
    match ofOpcode (opField w) with
    | some i => .ok i
    | none => .error .unknownOpcode
  else .error .reservedBits

/-- The opcode of a command (30_encoding.md R71). -/
def Instr.opcode : Instr → Opcode
  | .clear => 0x1
  | .setcolor => 0x2
  | .rstcolor => 0x3
  | .pack => 0x4
  | .pixel => 0x5
  | .line => 0x6
  | .rect => 0x7
  | .circle => 0x8

/-- The word of a command: `{rsv = 0x000, op}` (30_encoding.md R70). -/
def encode (i : Instr) : Word := 0#12 ++ i.opcode

/-- What the decoder reads from an instruction of `nbits` bits whose value is `w`, the bits above `nbits`
being zero.  A command is one 16-bit word and nothing longer (30_encoding.md R76), so a value that needs
more than 16 bits is no command. -/
def decodeTableWord (nbits w : Nat) : Option Instr :=
  let v := w % 2 ^ nbits
  if v < 0x10000 then
    match decode (BitVec.ofNat 16 v) with
    | .ok i => some i
    | .error _ => none
  else none

end Sys2Proof
end

