-- ==== Sys2Proof/Machine/State.lean ====
section
/-! DEFINITION. The state of the block and of the agents around it, as plain data (10_state.md R20), with
the reasons a step can stop and the state after reset (10_state.md R45). -/

namespace Sys2Proof.Machine

/-- The framebuffer: cell index and 16-bit cell value, in one canonical form (`Memory.wf`): indices strictly
rising, no entry of value 0, since an unlisted cell reads `0x0000` (10_state.md R35, R45).  The unit is the
cell, not the byte: no byte is addressable and there is no byte order (20_memory.md R59; log entry 4). -/
abbrev Memory := List (Nat × Word)

/-- The six errors (60_exceptions.md R176). -/
inductive ErrorKind where
  | illegalPixelCoordinates
  | illegalLineCoordinates
  | illegalRectangleCoordinates
  | illegalCircleCenter
  | illegalCircleRadius
  | illegalCommand
  deriving DecidableEq, Repr

/-- The externally visible events (00_scope.md R14). -/
inductive Event where
  /-- `Write(index, value)`, one per `MemWrite`. -/
  | write (index : Nat) (value : Word)
  /-- `SignalError(code)`, one per raised error. -/
  | signalError (code : Word)
  deriving DecidableEq, Repr

/-- The line stepper's `STEP`, the direction of the secondary axis (10_state.md R40). -/
inductive Direction where
  | plus
  | minus
  deriving DecidableEq, Repr

/-- The circle rasterizer's `SPAN`: which of the four spans of `Spans4` is being written (44_circle.md R155). -/
inductive SpanId where
  /-- Span 0: row `CY - D2`, half-width `D1`. -/
  | upperFirst
  /-- Span 1: row `CY + D2`, half-width `D1`. -/
  | lowerFirst
  /-- Span 2: row `CY - D1`, half-width `D2`. -/
  | upperSecond
  /-- Span 3: row `CY + D1`, half-width `D2`. -/
  | lowerSecond
  deriving DecidableEq, Repr

/-- The working registers of `LINE` (10_state.md R40): mathematical integers (00_scope.md R17). -/
structure LineRegs where
  /-- `MAJ`, the current driving coordinate. -/
  maj : Int
  /-- `MIN`, the current secondary coordinate. -/
  min : Int
  /-- `END`, the last driving coordinate. -/
  last : Int
  /-- `STEP`. -/
  step : Direction
  /-- `OVERY`: Y is the driving axis. -/
  overY : Bool
  /-- `VAR`, the running error term. -/
  var : Int
  /-- `INCF`, the increment when `VAR < 0`. -/
  incf : Int
  /-- `INCD`, the increment when `VAR >= 0`. -/
  incd : Int
  deriving DecidableEq, Repr

/-- The working registers of `RECT` (10_state.md R40). -/
structure RectRegs where
  /-- `RX`, the current column. -/
  rx : Int
  /-- `RY`, the current row. -/
  ry : Int
  /-- `RX1`, the first column. -/
  rx1 : Int
  /-- `RX2`, the last column. -/
  rx2 : Int
  /-- `RY2`, the last row. -/
  ry2 : Int
  deriving DecidableEq, Repr

/-- The working registers of `CIRCLE` (10_state.md R40). -/
structure CircleRegs where
  /-- `CX`, the centre's column. -/
  cx : Int
  /-- `CY`, the centre's row. -/
  cy : Int
  /-- `D1`, the offset along the swept axis. -/
  d1 : Int
  /-- `D2`, the complementary offset. -/
  d2 : Int
  /-- `VAR`, the running error term. -/
  var : Int
  /-- `SPAN`. -/
  span : SpanId
  /-- `SX`, the current column in the span. -/
  sx : Int
  deriving DecidableEq, Repr

/-- The operation in progress and its working registers (10_state.md R40).  The constructor is `OP`; the
registers stand at the write the next device step performs (log entry 5). -/
inductive Operation where
  /-- `CLEAR`, with `IDX`, the next cell index to clear. -/
  | clear (idx : Nat)
  /-- `PIXEL`, with the point latched at acceptance (log entry 9). -/
  | pixel (x y : Int)
  | line (regs : LineRegs)
  | rect (regs : RectRegs)
  | circle (regs : CircleRegs)
  deriving DecidableEq, Repr

/-- One atomic step of an agent (00_scope.md R10), or an assertion of the reset input (70_reset R200). -/
inductive Input where
  /-- The host's `HostWrite(off, v)` (10_state.md R32, R33). -/
  | hostWrite (off : RegOffset) (v : Word)
  /-- The host's `HostRead(off)` (10_state.md R31). -/
  | hostRead (off : RegOffset)
  /-- The host script's `WAIT` (30_encoding.md R79): read `STATUS` until bit 0 is clear. -/
  | hostWait
  /-- A device step (00_scope.md R12). -/
  | device
  /-- The display's `FbRead(a)` (20_memory.md R56, R58). -/
  | fbRead (a : Nat)
  /-- The display's `AckDirty` (20_memory.md R57). -/
  | ackDirty
  /-- `rst` is asserted and released (70_reset_and_hazards.md R200, R201). -/
  | rst
  deriving DecidableEq, Repr

/-- The whole machine.  `width` to `errcode` are the block (10_state.md R20); the fields after it are the
model's own: the steps the agents take next, the answers of the two read ports, the event trace and the
counter of free draws. -/
structure State where
  /-- `W`, fixed when the block is built (00_scope.md R7); read at `FBW`. -/
  width : Nat
  /-- `H`, fixed when the block is built (00_scope.md R7); read at `FBH`. -/
  height : Nat
  /-- `FB`, the framebuffer (10_state.md R35). -/
  fb : Memory
  /-- `ARG0` (10_state.md R23). -/
  arg0 : Word
  /-- `ARG1` (10_state.md R23). -/
  arg1 : Word
  /-- `ARG2` (10_state.md R23). -/
  arg2 : Word
  /-- `ARG3` (10_state.md R23). -/
  arg3 : Word
  /-- `COLOR`, the current drawing colour (10_state.md R24). -/
  color : Word
  /-- The operation in progress; `BUSY` is 1 exactly when there is one (10_state.md R26, R40; log entry 6). -/
  op : Option Operation
  /-- `ERR`, the sticky error flag (10_state.md R27). -/
  err : Bool
  /-- `DIRTY` (10_state.md R28). -/
  dirty : Bool
  /-- `ERRCODE` (10_state.md R29). -/
  errcode : Word
  /-- The steps the host, the display and a named device turn take next, in order (log entry 2). -/
  inputs : List Input
  /-- The read data of the host's most recent `HostRead`, the script's `$` (30_encoding.md R77, R78). -/
  hostData : Word
  /-- The value of the display's most recent `FbRead` (20_memory.md R56). -/
  displayData : Word
  /-- The event trace since reset, NEWEST FIRST (00_scope.md R14, 70_reset R201; log entry 12). -/
  events : List Event
  /-- How many free values have been drawn (log entry 8). -/
  draws : Nat
  deriving DecidableEq, Repr

/-- Why a step stops with a fault. -/
inductive Fault where
  /-- Raised by `memWrite` alone: a `MemWrite` outside `0 .. SIZE-1`.  It "never occurs" (20_memory.md R55)
  and 93_implementation_defined.md U1 has a model fault if it ever reaches one.  Safe. -/
  | writeOutOfRange
  deriving DecidableEq, Repr

/-- Why a step is refused. -/
inductive Refusal where
  /-- Raised by `exec` alone, for a command that has no meaning yet: there is none in this model.  Safe. -/
  | notModelled (mnemonic : String)
  deriving DecidableEq, Repr

/-- What a step answers. -/
abbrev Result := Host.Outcome State Fault Refusal

/-- The state of a `width` by `height` block after reset (10_state.md R45, 70_reset_and_hazards.md R200). -/
def State.resetOf (width height : Nat) : State where
  width := width
  height := height
  fb := []
  arg0 := 0
  arg1 := 0
  arg2 := 0
  arg3 := 0
  color := 0xFFFF
  op := none
  err := false
  dirty := false
  errcode := 0
  inputs := []
  hostData := 0
  displayData := 0
  events := []
  draws := 0

/-- The machine right after reset, for the instance `Config` names (log entry 1). -/
def State.reset : State := State.resetOf Config.buildWidth Config.buildHeight

end Sys2Proof.Machine
end

