-- ==== Sys2Proof/Machine/Flags.lean ====
section
/-! DEFINITION. The status flags, the `STATUS` word and the level outputs (10_state.md R25 to R28,
60_exceptions.md R186). -/

namespace Sys2Proof.Machine

/-- `BUSY`: 1 exactly while an operation is in progress (10_state.md R26). -/
def State.busy (s : State) : Bool := s.op.isSome

/-- `STATUS` as a host reads it: `{0[15:3], DIRTY, ERR, BUSY}` (10_state.md R25). -/
def statusWord (s : State) : Word :=
  0#13 ++ (BitVec.ofBool s.dirty ++ (BitVec.ofBool s.err ++ BitVec.ofBool s.busy))

/-- The bit of a word written to `STATUS` that clears `ERR`: bit 1 (10_state.md R25, R32). -/
def clearsErr (v : Word) : Bool := v.getLsbD 1

/-- The level outputs `busy`, `err`, `dirty`, which mirror `STATUS` bits 0, 1, 2 (60_exceptions.md R186). -/
def levelOutputs (s : State) : Bool × Bool × Bool := (s.busy, s.err, s.dirty)

end Sys2Proof.Machine
end

