-- ==== Sys2Proof/Machine/Operands.lean ====
section
/-! DEFINITION. The three ways a command reads an operand register (30_encoding.md R74, R75). -/

namespace Sys2Proof.Machine

/-- `S16`: `sext_16`, the two's-complement reading, in `-32768 .. 32767` (00_scope.md R16, 30_encoding.md R74). -/
def s16 (v : Word) : Int := if v.toNat < 0x8000 then (v.toNat : Int) else (v.toNat : Int) - 0x10000

/-- `U8`: bits 7:0, bits 15:8 ignored (30_encoding.md R74). -/
def u8 (v : Word) : Channel := v.extractLsb' 0 8

/-- `RAW16`: the pattern unchanged (30_encoding.md R74). -/
def raw16 (v : Word) : Word := v

end Sys2Proof.Machine
end

