-- ==== Sys2Proof/Machine/Ops.lean ====
section
/-! DEFINITION. The named operations over cells and registers: reading and writing a cell (20_memory.md
R52, R56), the bounds test (41_validate_pixel.md R111), raising and acknowledging an error
(60_exceptions.md R180, R184), and accepting a command (40_framebuffer_color.md R90). -/

namespace Sys2Proof.Machine

/-- What a cell that no entry lists reads as: every cell is zero at reset (10_state.md R35, R45). -/
def unlistedCell : Word := 0

/-- The value of a cell. -/
def Memory.read : Memory → Nat → Word
  | [], _ => unlistedCell
  | (b, u) :: m, a => if a = b then u else Memory.read m a

/-- Writing a cell, keeping the canonical form: writing what an unlisted cell reads as removes the entry. -/
def Memory.write : Memory → Nat → Word → Memory
  | [], a, v => if v = unlistedCell then [] else [(a, v)]
  | (b, u) :: m, a, v =>
    if a < b then
      if v = unlistedCell then (b, u) :: m else (a, v) :: (b, u) :: m
    else if a = b then
      if v = unlistedCell then m else (a, v) :: m
    else (b, u) :: Memory.write m a v

/-- Every entry's index lies above `lo`, indices rise strictly, and no entry holds the unlisted value. -/
def Memory.wfAbove (lo : Nat) : Memory → Bool
  | [] => true
  | (b, u) :: m => decide (lo ≤ b) && (decide (u ≠ unlistedCell) && Memory.wfAbove (b + 1) m)

/-- The canonical form of a framebuffer. -/
def Memory.wf (m : Memory) : Bool := Memory.wfAbove 0 m

/-- `SIZE = W*H`, the number of cells (00_scope.md R8). -/
def State.size (s : State) : Nat := s.width * s.height

/-- `AW`, the width in bits of a cell index on the write port: `ceil(log2 SIZE)`, and 1 for a single cell
(00_scope.md R8, 20_memory.md R53). -/
def addressWidth (s : State) : Nat := if s.size ≤ 1 then 1 else Nat.log2 (s.size - 1) + 1

/-- `InBounds(x, y)` over exact integers (41_validate_pixel.md R111). -/
def inBounds (s : State) (x y : Int) : Bool :=
  decide (0 ≤ x ∧ x < s.width ∧ 0 ≤ y ∧ y < s.height)

/-- The cell index of a point, `y*W + x`, an exact integer (10_state.md R35, 20_memory.md R51, R54). -/
def cellIndex (width : Nat) (x y : Int) : Int := y * width + x

/-- `MemWrite(a, 2, v)`: the cell, `DIRTY` and the `Write` event in one atomic step (20_memory.md R52).  An
index outside `0 .. SIZE-1` never occurs (R55); it faults (93_implementation_defined.md U1; log entry 16). -/
def memWrite (a : Int) (v : Word) (s : State) : Result :=
  if 0 ≤ a ∧ a < s.size then
    .next { s with
      fb := s.fb.write a.toNat v
      dirty := true
      events := .write a.toNat v :: s.events }
  else .fault .writeOutOfRange

/-- The code of an error (60_exceptions.md R176). -/
def ErrorKind.code : ErrorKind → Word
  | .illegalPixelCoordinates => 7
  | .illegalLineCoordinates => 8
  | .illegalRectangleCoordinates => 9
  | .illegalCircleCenter => 12
  | .illegalCircleRadius => 13
  | .illegalCommand => 0x0100

/-- `raise <Error>(code)`, the one way an error is taken (60_exceptions.md R180): `ERR`, `ERRCODE` and the
`SignalError` event; everything else is unchanged, nothing is saved and control goes nowhere. -/
def raiseError (e : ErrorKind) (s : State) : State :=
  { s with err := true, errcode := e.code, events := .signalError e.code :: s.events }

/-- The host's acknowledgement of an error, this block's counterpart of a return from exception
(60_exceptions.md R184, 10_state.md R32): `ERR` and `ERRCODE` are cleared and nothing else changes. -/
def acknowledgeError (s : State) : State := { s with err := false, errcode := 0 }

/-- `begin`: the validated operation is latched, which is `BUSY <- 1` (40_framebuffer_color.md R90). -/
def beginOperation (o : Operation) (s : State) : State := { s with op := some o }

/-- The acceptance step of a command: it is accepted only while `BUSY = 0` (40_framebuffer_color.md R90) and
has no effect at all otherwise (10_state.md R33; log entry 10). -/
def accept (body : State → State) (s : State) : Result :=
  .next (if s.busy then s else body s)

end Sys2Proof.Machine
end

