-- ==== Sys2Proof/Machine/Circle.lean ====
section
/-! DEFINITION. `CIRCLE`: the midpoint octant generator and the span rasterizer (44_circle.md R155 to R161). -/

namespace Sys2Proof.Machine

/-- The half-width of a span of the pair `(D1, D2)` (44_circle.md R155, R161). -/
def spanHalf (span : SpanId) (d1 d2 : Int) : Int :=
  match span with
  | .upperFirst => d1
  | .lowerFirst => d1
  | .upperSecond => d2
  | .lowerSecond => d2

/-- The row of a span of the pair `(D1, D2)` (44_circle.md R155, R161). -/
def spanRow (span : SpanId) (cy d1 d2 : Int) : Int :=
  match span with
  | .upperFirst => cy - d2
  | .lowerFirst => cy + d2
  | .upperSecond => cy - d1
  | .lowerSecond => cy + d1

/-- The first column of the span: `CX` less its half-width (44_circle.md R155). -/
def enterSpan (span : SpanId) (c : CircleRegs) : CircleRegs :=
  { c with span := span, sx := c.cx - spanHalf span c.d1 c.d2 }

/-- The generator's initial state, at the first column of the first span (44_circle.md R159, R155). -/
def circleSetup (cx cy r : Int) : CircleRegs :=
  enterSpan .upperFirst
    { cx := cx, cy := cy, d1 := 0, d2 := r, var := 1 - r, span := .upperFirst, sx := cx }

/-- One generator step: the OLD `VAR`, `D1` and `D2` decide and make the increment (44_circle.md R160). -/
def circleGenStep (c : CircleRegs) : CircleRegs :=
  if c.var < 0 then { c with var := c.var + 2 * c.d1 + 3, d1 := c.d1 + 1 }
  else { c with var := c.var + 2 * (c.d1 - c.d2) + 5, d2 := c.d2 - 1, d1 := c.d1 + 1 }

/-- The registers at the following write: the next column of the span, else the next span of the pair, else
the first span of the next pair while `D2 > D1`, else the end (44_circle.md R155, R161). -/
def circleAdvance (c : CircleRegs) : Option CircleRegs :=
  if c.sx < c.cx + spanHalf c.span c.d1 c.d2 then some { c with sx := c.sx + 1 }
  else
    match c.span with
    | .upperFirst => some (enterSpan .lowerFirst c)
    | .lowerFirst => some (enterSpan .upperSecond c)
    | .upperSecond => some (enterSpan .lowerSecond c)
    | .lowerSecond =>
      if c.d2 > c.d1 then some (enterSpan .upperFirst (circleGenStep c)) else none

/-- The radius check on a centre in bounds: a non-negative radius whose bounding box is in bounds
(44_circle.md R155, R157, R158). -/
def circleFits (s : State) (cx cy r : Int) : Bool :=
  decide (0 ≤ r) && (inBounds s (cx - r) (cy - r) && inBounds s (cx + r) (cy + r))

/-- `CIRCLE` (44_circle.md R155): the centre check comes first (R156). -/
def execCircle (s : State) : Result :=
  accept (fun s =>
    if inBounds s (s16 s.arg0) (s16 s.arg1) then
      if circleFits s (s16 s.arg0) (s16 s.arg1) (s16 s.arg2) then
        beginOperation (.circle (circleSetup (s16 s.arg0) (s16 s.arg1) (s16 s.arg2))) s
      else raiseError .illegalCircleRadius s
    else raiseError .illegalCircleCenter s) s

end Sys2Proof.Machine
end

