-- ==== Sys2Proof/Machine/Color.lean ====
section
/-! DEFINITION. The colour commands `SETCOLOR`, `RSTCOLOR`, `PACK` (40_framebuffer_color.md R93 to R96). -/

namespace Sys2Proof.Machine

/-- The packing formula over unsigned integers, exactly as printed (40_framebuffer_color.md R95). -/
def packNat (r g b : Nat) : Nat :=
  ((r &&& 0xF8) <<< 8) ||| ((g &&& 0xFC) <<< 3) ||| ((b >>> 3) &&& 0x1F)

/-- `pack(r, g, b)` as a 16-bit colour: the result is below `0x10000` (40_framebuffer_color.md R95). -/
def packColor (r g b : Channel) : Word := BitVec.ofNat 16 (packNat r.toNat g.toNat b.toNat)

/-- `SETCOLOR` (40_framebuffer_color.md R93): `COLOR <- ARG[0]`. -/
def execSetcolor (s : State) : Result := accept (fun s => { s with color := raw16 s.arg0 }) s

/-- `RSTCOLOR` (40_framebuffer_color.md R94): `COLOR <- 0xFFFF`. -/
def execRstcolor (s : State) : Result := accept (fun s => { s with color := 0xFFFF }) s

/-- `PACK` (40_framebuffer_color.md R96): all three operands are read before `ARG0` is written. -/
def execPack (s : State) : Result :=
  accept (fun s => { s with arg0 := packColor (u8 s.arg0) (u8 s.arg1) (u8 s.arg2) }) s

end Sys2Proof.Machine
end

