-- ==== Sys2Proof/Machine/Framebuffer.lean ====
section
/-! DEFINITION. `CLEAR` (40_framebuffer_color.md R92). -/

namespace Sys2Proof.Machine

/-- The working register after the write at `idx`: the next index, or the end after `SIZE-1` (R92). -/
def clearAdvance (size idx : Nat) : Option Nat :=
  if idx + 1 < size then some (idx + 1) else none

/-- `CLEAR` (40_framebuffer_color.md R92): no operand, no validator; the sweep starts at cell 0. -/
def execClear (s : State) : Result := accept (beginOperation (.clear 0)) s

end Sys2Proof.Machine
end

