-- ==== Sys2Proof/Machine/Line.lean ====
section
/-! DEFINITION. `LINE`, the Bresenham stepper (42_line.md R125 to R131). -/

namespace Sys2Proof.Machine

/-- `STEP` as the integer `+1` or `-1` (42_line.md R129). -/
def stepSign : Direction → Int
  | .plus => 1
  | .minus => -1

/-- The end of step 3 and the start of step 4: the working registers of a normalised line from
`(maj, min)` to `(last, mend)` in (driving, secondary) coordinates (42_line.md R129, R130). -/
def lineStart (overY : Bool) (maj min last mend dmaj dmin : Int) : LineRegs where
  maj := maj
  min := min
  last := last
  step := if min > mend then .minus else .plus
  overY := overY
  var := 2 * dmin - dmaj
  incf := 2 * dmin
  incd := 2 * dmin - 2 * dmaj

/-- Steps 2 and 3: distances, driving axis, and the exchange of endpoints that makes the driving coordinate
increase (42_line.md R127, R128, R129). -/
def lineSetup (x1 y1 x2 y2 : Int) : LineRegs :=
  let dx : Int := (x2 - x1).natAbs
  let dy : Int := (y2 - y1).natAbs
  if dx < dy then
    if y1 > y2 then lineStart true y2 x2 y1 x1 dy dx else lineStart true y1 x1 y2 x2 dy dx
  else
    if x1 > x2 then lineStart false x2 y2 x1 y1 dx dy else lineStart false x1 y1 x2 y2 dx dy

/-- The stepper's loop body up to its plot: the OLD `VAR` is tested (42_line.md R130). -/
def lineStep (l : LineRegs) : LineRegs :=
  if l.var < 0 then { l with var := l.var + l.incf, maj := l.maj + 1 }
  else { l with var := l.var + l.incd, min := l.min + stepSign l.step, maj := l.maj + 1 }

/-- The registers at the following write, or the end: `while MAJ < END` (42_line.md R125). -/
def lineAdvance (l : LineRegs) : Option LineRegs :=
  if l.maj < l.last then some (lineStep l) else none

/-- The column of the cell `PlotL(MAJ, MIN)` writes (42_line.md R131). -/
def lineColumn (l : LineRegs) : Int := if l.overY then l.min else l.maj

/-- The row of the cell `PlotL(MAJ, MIN)` writes (42_line.md R131). -/
def lineRow (l : LineRegs) : Int := if l.overY then l.maj else l.min

/-- `LINE` (42_line.md R125, R126): both endpoints are validated, then the stepper is latched. -/
def execLine (s : State) : Result :=
  accept (fun s =>
    if inBounds s (s16 s.arg0) (s16 s.arg1) && inBounds s (s16 s.arg2) (s16 s.arg3) then
      beginOperation (.line (lineSetup (s16 s.arg0) (s16 s.arg1) (s16 s.arg2) (s16 s.arg3))) s
    else raiseError .illegalLineCoordinates s) s

end Sys2Proof.Machine
end

