-- ==== Sys2Proof/Machine/Pixel.lean ====
section
/-! DEFINITION. `PIXEL` (41_validate_pixel.md R113, R114). -/

namespace Sys2Proof.Machine

/-- `PIXEL` (41_validate_pixel.md R114): validate, then one write at the point. -/
def execPixel (s : State) : Result :=
  accept (fun s =>
    if inBounds s (s16 s.arg0) (s16 s.arg1) then
      beginOperation (.pixel (s16 s.arg0) (s16 s.arg1)) s
    else raiseError .illegalPixelCoordinates s) s

end Sys2Proof.Machine
end

