-- ==== Sys2Proof/Machine/Rect.lean ====
section
/-! DEFINITION. `RECT`, the filled rectangle (43_rectangle.md R145 to R148). -/

namespace Sys2Proof.Machine

/-- The registers at the first write of the rectangle (43_rectangle.md R145). -/
def rectSetup (x1 y1 x2 y2 : Int) : RectRegs where
  rx := x1
  ry := y1
  rx1 := x1
  rx2 := x2
  ry2 := y2

/-- The registers at the following write: the next column of the span, else the first column of the next
row, else the end (43_rectangle.md R145, R146, R148). -/
def rectAdvance (q : RectRegs) : Option RectRegs :=
  if q.rx < q.rx2 then some { q with rx := q.rx + 1 }
  else if q.ry < q.ry2 then some { q with rx := q.rx1, ry := q.ry + 1 }
  else none

/-- Rectangle validation (43_rectangle.md R147): ordered corners, both in bounds. -/
def rectValid (s : State) (x1 y1 x2 y2 : Int) : Bool :=
  decide (x1 ≤ x2) && (decide (y1 ≤ y2) && (inBounds s x1 y1 && inBounds s x2 y2))

/-- `RECT` (43_rectangle.md R145). -/
def execRect (s : State) : Result :=
  accept (fun s =>
    if rectValid s (s16 s.arg0) (s16 s.arg1) (s16 s.arg2) (s16 s.arg3) then
      beginOperation (.rect (rectSetup (s16 s.arg0) (s16 s.arg1) (s16 s.arg2) (s16 s.arg3))) s
    else raiseError .illegalRectangleCoordinates s) s

end Sys2Proof.Machine
end

