-- ==== Sys2Proof/Machine/Device.lean ====
section
/-! DEFINITION. The device's step: one `MemWrite` of the operation in progress (00_scope.md R12). -/

namespace Sys2Proof.Machine

/-- `OP`, the opcode of the operation in progress (10_state.md R40). -/
def Operation.opcode : Operation → Opcode
  | .clear _ => Instr.clear.opcode
  | .pixel _ _ => Instr.pixel.opcode
  | .line _ => Instr.line.opcode
  | .rect _ => Instr.rect.opcode
  | .circle _ => Instr.circle.opcode

/-- The index of the operation's next `MemWrite`: the swept index for `CLEAR` (40_framebuffer_color.md R92),
`Plot`'s index for the others (20_memory.md R54; 41 R114, 42 R131, 43 R145, 44 R155). -/
def Operation.index (width : Nat) : Operation → Int
  | .clear idx => idx
  | .pixel x y => cellIndex width x y
  | .line l => cellIndex width (lineColumn l) (lineRow l)
  | .rect q => cellIndex width q.rx q.ry
  | .circle c => cellIndex width c.sx (spanRow c.span c.cy c.d1 c.d2)

/-- The value of the operation's next `MemWrite`: `0x0000` for `CLEAR`, `COLOR` as it stands at the write
for the others (40_framebuffer_color.md R92, 20_memory.md R54; log entry 11). -/
def Operation.value (color : Word) : Operation → Word
  | .clear _ => 0
  | .pixel _ _ => color
  | .line _ => color
  | .rect _ => color
  | .circle _ => color

/-- The operation at its following write, or none after its last one. -/
def Operation.advance (size : Nat) : Operation → Option Operation
  | .clear idx => (clearAdvance size idx).map .clear
  | .pixel _ _ => none
  | .line l => (lineAdvance l).map .line
  | .rect q => (rectAdvance q).map .rect
  | .circle c => (circleAdvance c).map .circle

/-- The working registers move on after a write that was performed. -/
def moveOn (next : Option Operation) : Result → Result
  | .next s => .next { s with op := next }
  | .fault r => .fault r
  | .refused r => .refused r

/-- A device step (00_scope.md R12): exactly one `MemWrite`; the last one also clears `BUSY`.  An idle device
has no step to take and a turn given to it changes nothing (60_exceptions.md R195; log entry 14). -/
def deviceStep (s : State) : Result :=
  match s.op with
  | none => .next s
  | some o => moveOn (o.advance s.size) (memWrite (o.index s.width) (o.value s.color) s)

end Sys2Proof.Machine
end

