-- ==== Sys2Proof/Machine/Dispatch.lean ====
section
/-! DEFINITION. One arm per command: its acceptance step (40_framebuffer_color.md R90). -/

namespace Sys2Proof.Machine

/-- The acceptance step of a command. -/
def exec (i : Instr) (s : State) : Host.Outcome State Fault Refusal :=
  match i with
  | .clear => Sys2Proof.Machine.execClear s
  | .setcolor => Sys2Proof.Machine.execSetcolor s
  | .rstcolor => Sys2Proof.Machine.execRstcolor s
  | .pack => Sys2Proof.Machine.execPack s
  | .pixel => Sys2Proof.Machine.execPixel s
  | .line => Sys2Proof.Machine.execLine s
  | .rect => Sys2Proof.Machine.execRect s
  | .circle => Sys2Proof.Machine.execCircle s

end Sys2Proof.Machine
end

