-- ==== Sys2Proof/Machine/Agents.lean ====
section
/-! DEFINITION. What the agents can do to the block: host reads and writes (10_state.md R31 to R33), the
issue of a command (30_encoding.md R70, R72), the display port (20_memory.md R56 to R58), the reset input
(70_reset_and_hazards.md R200, R201), and one turn of the machine (00_scope.md R10). -/

namespace Sys2Proof.Machine

/-- The value a host read of a register offset returns (10_state.md R31). -/
def hostRegister (off : RegOffset) (s : State) : Word :=
  match off.toNat with
  | 0x1 => s.arg0
  | 0x2 => s.arg1
  | 0x3 => s.arg2
  | 0x4 => s.arg3
  | 0x5 => s.color
  | 0x6 => statusWord s
  | 0x7 => s.errcode
  | 0x8 => BitVec.ofNat 16 s.width
  | 0x9 => BitVec.ofNat 16 s.height
  | _ => 0

/-- `HostRead(off)` (10_state.md R31): the block does not change; the read data is answered on the port. -/
def hostRead (off : RegOffset) (s : State) : Result := .next { s with hostData := hostRegister off s }

/-- The issue of a command word (30_encoding.md R70): a command executes its rule, any other word raises
`IllegalCommand` and nothing else (R72, 60_exceptions.md R179). -/
def issue (w : Word) (s : State) : Result :=
  match decode w with
  | .ok i => exec i s
  | .error _ => .next (raiseError .illegalCommand s)

/-- `HostWrite(off, v)`: no effect at all while `BUSY = 1` (10_state.md R33), else by offset (R32). -/
def hostWrite (off : RegOffset) (v : Word) (s : State) : Result :=
  if s.busy then .next s
  else
    match off.toNat with
    | 0x0 => issue v s
    | 0x1 => .next { s with arg0 := v }
    | 0x2 => .next { s with arg1 := v }
    | 0x3 => .next { s with arg2 := v }
    | 0x4 => .next { s with arg3 := v }
    | 0x6 => .next (if clearsErr v then acknowledgeError s else s)
    | _ => .next s

/-- One round of the host script's `WAIT` (30_encoding.md R79): `RD STATUS`; when bit 0 of the answer is
set the device takes a turn and the host reads again (log entry 13). -/
def hostWait (s : State) : Result :=
  .next { s with
    hostData := statusWord s
    inputs := if (statusWord s).getLsbD 0 then .device :: .hostWait :: s.inputs else s.inputs }

/-- `FbRead(a)` (20_memory.md R56): the cell, or outside `0 .. SIZE-1` an unspecified value, drawn free
(R58; log entry 8).  The block does not change. -/
def fbRead (a : Nat) (s : State) : Result :=
  if a < s.size then .next { s with displayData := s.fb.read a }
  else .next { s with displayData := Config.freeWord s.draws, draws := s.draws + 1 }

/-- `AckDirty` (20_memory.md R57): `DIRTY <- 0` and nothing else. -/
def ackDirty (s : State) : Result := .next { s with dirty := false }

/-- `rst`: the block is in its reset state and the event trace restarts empty (70_reset_and_hazards.md
R200, R201); its size is what it was built with (R202).  What the agents do next, the answers they hold and
the count of free draws are not the block's and stay (log entry 7). -/
def applyReset (s : State) : Result :=
  .next { State.resetOf s.width s.height with
    inputs := s.inputs, hostData := s.hostData, displayData := s.displayData, draws := s.draws }

/-- One atomic step of an agent (00_scope.md R10). -/
def perform (i : Input) (s : State) : Result :=
  match i with
  | .hostWrite off v => hostWrite off v s
  | .hostRead off => hostRead off s
  | .hostWait => hostWait s
  | .device => deviceStep s
  | .fbRead a => fbRead a s
  | .ackDirty => ackDirty s
  | .rst => applyReset s

/-- One step of the machine: the agent whose step stands first takes it; when none stands, the device takes
its turn, so an accepted operation always goes on (00_scope.md R10, R15; log entry 2). -/
def turn (s : State) : Result :=
  match s.inputs with
  | [] => deviceStep s
  | i :: rest => perform i { s with inputs := rest }

/-- The host's write of a command word stands first and the block is ready for it (log entry 3). -/
def placeCommand (w : Word) (s : State) : State :=
  { s with op := none, inputs := .hostWrite 0x0 w :: s.inputs }

end Sys2Proof.Machine
end

