-- ==== Sys2Proof/Machine/Script.lean ====
section
/-! DEFINITION. The host-script notation and its pseudo-instructions as lists of host transactions
(30_encoding.md R77 to R79). -/

namespace Sys2Proof.Machine

/-- The register names of the notation (30_encoding.md R78). -/
inductive HostReg where
  | cmd
  | arg0
  | arg1
  | arg2
  | arg3
  | color
  | status
  | errcode
  | fbw
  | fbh
  deriving DecidableEq, Repr

/-- `off(reg)`, the word offset of a register (10_state.md R21). -/
def HostReg.offset : HostReg → RegOffset
  | .cmd => 0x0
  | .arg0 => 0x1
  | .arg1 => 0x2
  | .arg2 => 0x3
  | .arg3 => 0x4
  | .color => 0x5
  | .status => 0x6
  | .errcode => 0x7
  | .fbw => 0x8
  | .fbh => 0x9

/-- A host transaction `(we, off, data)`; the data of a read is ignored (30_encoding.md R77). -/
def transaction (we : Bool) (off : RegOffset) (data : Word) : Input :=
  if we then .hostWrite off data else .hostRead off

/-- A number of the notation as a 16-bit pattern: `n` is itself, `-n` stands for `0x10000 - n` (30_encoding.md
R78).  R78 gives no pattern to a number above `0xFFFF` or to `-n` with `n` above `0x10000`: it "cannot be
expressed" and is refused here, at the boundary, instead of being wrapped (93_implementation_defined.md U19;
DESIGN CHOICE, log entry 19). -/
def scriptNumber (n : Int) : Option Word :=
  if 0 ≤ n ∧ n ≤ 0xFFFF then some (BitVec.ofNat 16 n.toNat)
  else if -0x10000 ≤ n ∧ n < 0 then some (BitVec.ofNat 16 (0x10000 + n).toNat)
  else none

/-- `WR reg, v` (30_encoding.md R78). -/
def wr (reg : HostReg) (v : Word) : Input := transaction true reg.offset v

/-- `RD reg` (30_encoding.md R78). -/
def rd (reg : HostReg) : Input := transaction false reg.offset 0

/-- A bare command mnemonic: `W 0 <word>` (30_encoding.md R78). -/
def command (i : Instr) : Input := wr .cmd (encode i)

/-- The pseudo-instructions (30_encoding.md R79). -/
inductive Pseudo where
  | wait
  | clear
  | setColor (c : Word)
  | setColorRGB (r g b : Word)
  | drawPixel (x y : Word)
  | drawLine (x1 y1 x2 y2 : Word)
  | drawRectangle (x1 y1 x2 y2 : Word)
  | drawCircle (cx cy r : Word)
  | clearErr
  deriving DecidableEq, Repr

/-- The expansion of a pseudo-instruction, in the order shown (30_encoding.md R79). -/
def Pseudo.expand : Pseudo → List Input
  | .wait => [.hostWait]
  | .clear => [command .clear, .hostWait]
  | .setColor c => [wr .arg0 c, command .setcolor]
  | .setColorRGB r g b =>
    [wr .arg0 r, wr .arg1 g, wr .arg2 b, command .pack, command .setcolor]
  | .drawPixel x y => [wr .arg0 x, wr .arg1 y, command .pixel, .hostWait]
  | .drawLine x1 y1 x2 y2 =>
    [wr .arg0 x1, wr .arg1 y1, wr .arg2 x2, wr .arg3 y2, command .line, .hostWait]
  | .drawRectangle x1 y1 x2 y2 =>
    [wr .arg0 x1, wr .arg1 y1, wr .arg2 x2, wr .arg3 y2, command .rect, .hostWait]
  | .drawCircle cx cy r =>
    [wr .arg0 cx, wr .arg1 cy, wr .arg2 r, command .circle, .hostWait]
  | .clearErr => [wr .status 0x0002]

end Sys2Proof.Machine
end

