-- ==== Sys2Proof/Machine/Step.lean ====
section
/-! DEFINITION. One step of the machine, and where the next command word comes from. -/

namespace Sys2Proof.Machine

/-- One step of the machine (00_scope.md R10, R12). -/
def step (s : State) : Host.Outcome State Fault Refusal := turn s

/-- The state whose very next step is the acceptance step of the command word `w` (its bits above `nbits`
zero): the block fetches nothing (10_state.md R38), so the host's write of `CMD` is placed (log entry 3). -/
def State.withFetchWord (s : State) (nbits w : Nat) : State :=
  placeCommand (BitVec.ofNat 16 (w % 2 ^ nbits)) s

end Sys2Proof.Machine
end

