-- ==== Sys2Proof/Safety.lean ====
section
/-! DEFINITION. The terms claims are stated in: the invariant of a safe state, and the write sequence the
spec gives each drawing command, written from its closed forms and loops, not from the working registers
(00_scope.md R13 says the two are interchangeable). -/

namespace Sys2Proof.Machine

/-! ## The invariant -/

/-- A point inside a `w` by `h` grid (41_validate_pixel.md R111). -/
def PointIn (w h : Nat) (x y : Int) : Prop := 0 ≤ x ∧ x < w ∧ 0 ≤ y ∧ y < h

/-- A stepper on its way between two points of the grid, with `m` secondary steps still to take and driving
distance `d` in all: the error term is the one 42_line.md R132 gives it. -/
def LineRegs.Inv (w h : Nat) (l : LineRegs) : Prop :=
  ∃ m d : Int, 0 ≤ m ∧ l.maj ≤ l.last ∧ l.last - l.maj ≤ d ∧ 0 ≤ l.incf ∧ l.incd = l.incf - 2 * d ∧
    l.var = l.incf * (1 - (l.last - l.maj)) + (2 * m - 1) * d ∧
    PointIn w h (lineColumn l) (lineRow l) ∧
    PointIn w h (lineColumn { l with maj := l.last, min := l.min + stepSign l.step * m })
      (lineRow { l with maj := l.last, min := l.min + stepSign l.step * m })

/-- A rectangle inside the grid with its current cell inside it (43_rectangle.md R147). -/
def RectRegs.Inv (w h : Nat) (q : RectRegs) : Prop :=
  q.rx1 ≤ q.rx ∧ q.rx ≤ q.rx2 ∧ q.ry ≤ q.ry2 ∧ PointIn w h q.rx1 q.ry ∧ PointIn w h q.rx2 q.ry2

/-- Offsets that keep all four spans inside the grid, and the current column inside its span
(44_circle.md R164). -/
def CircleRegs.Inv (w h : Nat) (c : CircleRegs) : Prop :=
  0 ≤ c.d1 ∧ 0 ≤ c.d2 ∧
    PointIn w h (c.cx - c.d1) (c.cy - c.d1) ∧ PointIn w h (c.cx + c.d1) (c.cy + c.d1) ∧
    PointIn w h (c.cx - c.d2) (c.cy - c.d2) ∧ PointIn w h (c.cx + c.d2) (c.cy + c.d2) ∧
    c.cx - spanHalf c.span c.d1 c.d2 ≤ c.sx ∧ c.sx ≤ c.cx + spanHalf c.span c.d1 c.d2

/-- An operation all of whose remaining writes are inside the framebuffer (20_memory.md R55). -/
def Operation.Inv (w h : Nat) : Operation → Prop
  | .clear idx => idx < w * h
  | .pixel x y => PointIn w h x y
  | .line l => l.Inv w h
  | .rect q => q.Inv w h
  | .circle c => c.Inv w h

/-- The invariant of a safe state: a legal geometry (00_scope.md R7), a framebuffer in canonical form with no
cell outside it (10_state.md R35), and an operation in progress that stays inside it (20_memory.md R55). -/
def State.Inv (s : State) : Prop :=
  geometryWf s.width s.height = true ∧ s.fb.wf = true ∧ (∀ p ∈ s.fb, p.1 < s.size) ∧
    ∀ o, s.op = some o → o.Inv s.width s.height

/-- The codes `ERRCODE` can hold: that of no error, or one of the six (60_exceptions.md R176, 10_state.md R29). -/
def LegalErrcode (v : Word) : Prop :=
  v = 0 ∨ v = 7 ∨ v = 8 ∨ v = 9 ∨ v = 12 ∨ v = 13 ∨ v = 0x0100

/-- `ERR` and `ERRCODE` agree: no error has the code `0x0000` (10_state.md R27, R29). -/
def State.ErrorAgrees (s : State) : Prop := LegalErrcode s.errcode ∧ (s.err = false ↔ s.errcode = 0)

/-- The value of the most recent `Write` to a cell in a trace that is newest first, or the reset value. -/
def lastWrite : List Event → Nat → Word
  | [], _ => 0
  | .write b v :: es, a => if a = b then v else lastWrite es a
  | .signalError _ :: es, a => lastWrite es a

/-- Every cell holds what the trace since reset last wrote to it (20_memory.md R56, R63). -/
def State.CellsAgree (s : State) : Prop := ∀ a, s.fb.read a = lastWrite s.events a

/-! ## Write sequences -/

/-- The cells after a sequence of writes, in order. -/
def applyWrites (m : Memory) (ws : List (Nat × Word)) : Memory :=
  ws.foldl (fun m p => m.write p.1 p.2) m

/-- The trace after a sequence of writes, newest first. -/
def traceWrites (es : List Event) (ws : List (Nat × Word)) : List Event :=
  (ws.map fun p => Event.write p.1 p.2).reverse ++ es

/-- With nobody else taking steps, the device performs exactly the writes `ws` from `s`, one a step and in
that order, sets `DIRTY` by each, keeps `BUSY` until the last, and changes nothing else (00_scope.md R12). -/
def Performs (ws : List (Nat × Word)) (s : State) : Prop :=
  ∀ k, k ≤ ws.length → ∃ o : Option Operation,
    Host.Core.run Sys2Proof.core k s = .next { s with
      op := o
      fb := applyWrites s.fb (ws.take k)
      dirty := s.dirty || decide (0 < k)
      events := traceWrites s.events (ws.take k) } ∧
    (o.isSome = true ↔ k < ws.length)

/-- One write of the colour at a point (20_memory.md R54). -/
def plotWrite (w : Nat) (color : Word) (x y : Int) : Nat × Word := ((cellIndex w x y).toNat, color)

/-- `CLEAR`'s writes (40_framebuffer_color.md R92). -/
def clearWrites (size : Nat) : List (Nat × Word) := (List.range size).map fun a => (a, 0)

/-- `HSpan(row, xa, xb)` (43_rectangle.md R146). -/
def hspanWrites (w : Nat) (color : Word) (row xa xb : Int) : List (Nat × Word) :=
  (List.range (xb - xa + 1).toNat).map fun n => plotWrite w color (xa + n) row

/-- `RECT`'s writes by their closed form (43_rectangle.md R148): the `n`-th is at column
`x1 + (n mod columns)`, row `y1 + floor(n / columns)`. -/
def rectWrites (w : Nat) (color : Word) (x1 y1 x2 y2 : Int) : List (Nat × Word) :=
  let columns := (x2 - x1 + 1).toNat
  (List.range (columns * (y2 - y1 + 1).toNat)).map fun n =>
    plotWrite w color (x1 + (n % columns : Nat)) (y1 + (n / columns : Nat))

/-- `a_k` of 42_line.md R132: `k*dmin/dmaj` rounded to the nearest integer, halves up; 0 when `dmaj = 0`. -/
def lineOffset (dmaj dmin k : Nat) : Nat := (2 * k * dmin + dmaj) / (2 * dmaj)

/-- The `k`-th point of a line by its closed form (42_line.md R132): from the endpoint with the smaller
driving coordinate, `k` along the driving axis and `a_k` along the other, towards the other endpoint. -/
def linePoint (x1 y1 x2 y2 : Int) (k : Nat) : Int × Int :=
  let dx := (x2 - x1).natAbs
  let dy := (y2 - y1).natAbs
  if dx < dy then
    let a : Int := lineOffset dy dx k
    if y1 ≤ y2 then (if x1 ≤ x2 then x1 + a else x1 - a, y1 + k)
    else (if x2 ≤ x1 then x2 + a else x2 - a, y2 + k)
  else
    let a : Int := lineOffset dx dy k
    if x1 ≤ x2 then (x1 + k, if y1 ≤ y2 then y1 + a else y1 - a)
    else (x2 + k, if y2 ≤ y1 then y2 + a else y2 - a)

/-- `LINE`'s writes (42_line.md R132): `max(|x2-x1|, |y2-y1|) + 1` of them. -/
def lineWrites (w : Nat) (color : Word) (x1 y1 x2 y2 : Int) : List (Nat × Word) :=
  (List.range (max (x2 - x1).natAbs (y2 - y1).natAbs + 1)).map fun k =>
    plotWrite w color (linePoint x1 y1 x2 y2 k).1 (linePoint x1 y1 x2 y2 k).2

/-- One state `(D1, D2, VAR)` of the octant generator. -/
abbrev Octant := Int × Int × Int

/-- The generator's loop body (44_circle.md R160). -/
def octantStep (g : Octant) : Octant :=
  if g.2.2 < 0 then (g.1 + 1, g.2.1, g.2.2 + 2 * g.1 + 3)
  else (g.1 + 1, g.2.1 - 1, g.2.2 + 2 * (g.1 - g.2.1) + 5)

/-- The generator's states from `g` on, while `D2 > D1`, at most `fuel` of them after `g`. -/
def octantsFrom : Nat → Octant → List Octant
  | 0, g => [g]
  | fuel + 1, g => if g.2.1 > g.1 then g :: octantsFrom fuel (octantStep g) else [g]

/-- The generator's states for radius `r`, the initial one included (44_circle.md R159, R160); `D1` gains 1
a step and never passes `r`, so `r` steps are enough. -/
def octants (r : Int) : List Octant := octantsFrom r.toNat (0, r, 1 - r)

/-- `Spans4()` for one pair (44_circle.md R155). -/
def spans4Writes (w : Nat) (color : Word) (cx cy : Int) (g : Octant) : List (Nat × Word) :=
  hspanWrites w color (cy - g.2.1) (cx - g.1) (cx + g.1) ++
  hspanWrites w color (cy + g.2.1) (cx - g.1) (cx + g.1) ++
  hspanWrites w color (cy - g.1) (cx - g.2.1) (cx + g.2.1) ++
  hspanWrites w color (cy + g.1) (cx - g.2.1) (cx + g.2.1)

/-- `CIRCLE`'s writes (44_circle.md R155, R161). -/
def circleWrites (w : Nat) (color : Word) (cx cy r : Int) : List (Nat × Word) :=
  (octants r).flatMap (spans4Writes w color cx cy)

/-- The offsets a circle of radius `r` touches (44_circle.md R166). -/
def CircleTouches (r ex ey : Int) : Prop :=
  ∃ g ∈ octants r, (ey.natAbs = g.2.1 ∧ ex.natAbs ≤ g.1) ∨ (ey.natAbs = g.1 ∧ ex.natAbs ≤ g.2.1)

end Sys2Proof.Machine
end

