-- ==== Sys2Proof/Certificates/Slice0/Obligations.lean ====
section
/-! DEFINITION. The statements for the provers. Each docstring names the rule of spec/ it formalises. -/

open Sys2Proof Sys2Proof.Machine

/-! ## Encoding -/

/-- 30_encoding.md R71's words and four of R72's illegal words decode as the tables say. -/
def Obligations.TableWordsDecode : Prop :=
  decode 0x0001 = .ok .clear ∧ decode 0x0002 = .ok .setcolor ∧ decode 0x0003 = .ok .rstcolor ∧
  decode 0x0004 = .ok .pack ∧ decode 0x0005 = .ok .pixel ∧ decode 0x0006 = .ok .line ∧
  decode 0x0007 = .ok .rect ∧ decode 0x0008 = .ok .circle ∧
  decode 0x0000 = .error .unknownOpcode ∧ decode 0x0009 = .error .unknownOpcode ∧
  decode 0x0015 = .error .reservedBits ∧ decode 0xFFFF = .error .reservedBits

/-- 30_encoding.md R70 to R72: a word decodes to a command exactly when it is that command's word, and it is
rejected exactly when it is none of `0x0001 .. 0x0008`. -/
def Obligations.DecodeInvertsEncode : Prop :=
  (∀ (w : Word) (i : Instr), decode w = .ok i ↔ w = encode i) ∧
  (∀ w : Word, (∃ e, decode w = .error e) ↔ ¬(1 ≤ w.toNat ∧ w.toNat ≤ 8))

/-! ## One step of the machine -/

/-- A step whose agent is the host writing a command's word to `CMD` is that command's acceptance step, with
the transaction taken off the queue; and the state `withFetchWord` makes (log entry 3) is one of those. -/
def Obligations.StepRunsDecodedCommand : Prop :=
  (∀ (s : State) (w : Word) (rest : List Input) (i : Instr),
    s.inputs = .hostWrite 0x0 w :: rest → s.op = none → decode w = .ok i →
      step s = exec i { s with inputs := rest }) ∧
  (∀ (s : State) (nbits w : Nat) (i : Instr),
    decode (BitVec.ofNat 16 (w % 2 ^ nbits)) = .ok i →
      step (s.withFetchWord nbits w) = exec i { s with op := none })

/-- 60_exceptions.md R179: an illegal word written to `CMD` raises `IllegalCommand` and nothing else. -/
def Obligations.IllegalWordRaisesIllegalCommand : Prop :=
  ∀ (s : State) (w : Word) (rest : List Input),
    s.inputs = .hostWrite 0x0 w :: rest → s.op = none → ¬(1 ≤ w.toNat ∧ w.toNat ≤ 8) →
      step s = .next { s with
        inputs := rest
        err := true
        errcode := 0x0100
        events := .signalError 0x0100 :: s.events }

/-- 10_state.md R33: a host write while `BUSY = 1` has no effect at all. -/
def Obligations.HostWriteWhileBusyIsDiscarded : Prop :=
  ∀ (s : State) (off : RegOffset) (v : Word) (rest : List Input),
    s.inputs = .hostWrite off v :: rest → s.busy = true → step s = .next { s with inputs := rest }

/-- 10_state.md R32: what a host write does at each offset while `BUSY = 0`. -/
def Obligations.HostWriteByOffset : Prop :=
  ∀ (s : State) (off : RegOffset) (v : Word) (rest : List Input),
    s.inputs = .hostWrite off v :: rest → s.busy = false →
      (off = 0x0 → step s = issue v { s with inputs := rest }) ∧
      (off = 0x1 → step s = .next { s with inputs := rest, arg0 := v }) ∧
      (off = 0x2 → step s = .next { s with inputs := rest, arg1 := v }) ∧
      (off = 0x3 → step s = .next { s with inputs := rest, arg2 := v }) ∧
      (off = 0x4 → step s = .next { s with inputs := rest, arg3 := v }) ∧
      (off = 0x6 → v.getLsbD 1 = true →
        step s = .next { s with inputs := rest, err := false, errcode := 0 }) ∧
      (off = 0x6 → v.getLsbD 1 = false → step s = .next { s with inputs := rest }) ∧
      (off = 0x5 ∨ 0x7 ≤ off.toNat → step s = .next { s with inputs := rest })

/-- 10_state.md R31: what a host read returns at each offset, whatever `BUSY` is, and that it changes no state
of the block; bits 2, 1, 0 of `STATUS` are `DIRTY`, `ERR`, `BUSY`. -/
def Obligations.HostReadReturnsRegister : Prop :=
  ∀ (s : State) (off : RegOffset) (rest : List Input),
    s.inputs = .hostRead off :: rest → geometryWf s.width s.height = true →
      ∃ v : Word, step s = .next { s with inputs := rest, hostData := v } ∧
        (off = 0x0 → v = 0) ∧ (off = 0x1 → v = s.arg0) ∧ (off = 0x2 → v = s.arg1) ∧
        (off = 0x3 → v = s.arg2) ∧ (off = 0x4 → v = s.arg3) ∧ (off = 0x5 → v = s.color) ∧
        (off = 0x6 → v.toNat = 4 * s.dirty.toNat + 2 * s.err.toNat + s.busy.toNat) ∧
        (off = 0x7 → v = s.errcode) ∧ (off = 0x8 → v.toNat = s.width) ∧ (off = 0x9 → v.toNat = s.height) ∧
        (0xA ≤ off.toNat → v = 0)

/-- 20_memory.md R56: a display read in range returns what the most recent `MemWrite` to the cell left, or
`0x0000` if there was none, and changes no state of the block. -/
def Obligations.DisplayReadReturnsLatestWrite : Prop :=
  ∀ (s : State) (a : Nat) (rest : List Input),
    s.inputs = .fbRead a :: rest → a < s.size → s.CellsAgree →
      step s = .next { s with inputs := rest, displayData := lastWrite s.events a } ∧
        s.fb.read a = lastWrite s.events a

/-- 20_memory.md R58: a display read out of range returns an unspecified value and changes no state of the
block.  That `draws`, the model's own count of free values, gains 1 is the model's choice (DESIGN CHOICE, log
entry 8); nothing is said of the value. -/
def Obligations.DisplayReadOutOfRangeChangesNothing : Prop :=
  ∀ (s : State) (a : Nat) (rest : List Input),
    s.inputs = .fbRead a :: rest → s.size ≤ a →
      ∃ v : Word, step s = .next { s with inputs := rest, displayData := v, draws := s.draws + 1 }

/-- 20_memory.md R57: `AckDirty` sets `DIRTY` to 0, at any time, and does nothing else. -/
def Obligations.AckDirtyClearsOnlyDirty : Prop :=
  ∀ (s : State) (rest : List Input),
    s.inputs = .ackDirty :: rest → step s = .next { s with inputs := rest, dirty := false }

/-! ## Reset -/

/-- 10_state.md R45: the reset values, for every legal geometry. -/
def Obligations.ResetStateValues : Prop :=
  ∀ w h : Nat, geometryWf w h = true →
    (∀ a, (State.resetOf w h).fb.read a = 0) ∧ (State.resetOf w h).color = 0xFFFF ∧
    (State.resetOf w h).arg0 = 0 ∧ (State.resetOf w h).arg1 = 0 ∧ (State.resetOf w h).arg2 = 0 ∧
    (State.resetOf w h).arg3 = 0 ∧ (State.resetOf w h).busy = false ∧ (State.resetOf w h).err = false ∧
    (State.resetOf w h).dirty = false ∧ (State.resetOf w h).errcode = 0 ∧
    (State.resetOf w h).width = w ∧ (State.resetOf w h).height = h ∧
    (hostRegister 0x8 (State.resetOf w h)).toNat = w ∧ (hostRegister 0x9 (State.resetOf w h)).toNat = h

/-- 70_reset_and_hazards.md R200, R201: the reset input, at any time, even while `BUSY = 1`, leaves the reset
state and an empty trace; what it leaves of the agents' own fields is the model's choice (log entry 7). -/
def Obligations.ResetInputAbandonsEverything : Prop :=
  ∀ (s : State) (rest : List Input), s.inputs = .rst :: rest →
    ∃ t, step s = .next t ∧
      (∀ a, t.fb.read a = 0) ∧ t.color = 0xFFFF ∧ t.arg0 = 0 ∧ t.arg1 = 0 ∧ t.arg2 = 0 ∧ t.arg3 = 0 ∧
      t.busy = false ∧ t.err = false ∧ t.dirty = false ∧ t.errcode = 0 ∧ t.events = [] ∧
      t.width = s.width ∧ t.height = s.height ∧ t.inputs = rest

/-! ## The colour commands -/

/-- 40_framebuffer_color.md R93: `COLOR <- ARG[0]`, in the acceptance step, and nothing else. -/
def Obligations.SetcolorLoadsColor : Prop :=
  ∀ s : State, s.busy = false → exec .setcolor s = .next { s with color := s.arg0 }

/-- 40_framebuffer_color.md R94: `COLOR <- 0xFFFF`, in the acceptance step, and nothing else. -/
def Obligations.RstcolorRestoresWhite : Prop :=
  ∀ s : State, s.busy = false → exec .rstcolor s = .next { s with color := 0xFFFF }

/-- 40_framebuffer_color.md R96 with R95's table: `ARG0` becomes `{r[7:3], g[7:2], b[7:3]}` of the low bytes of
`ARG0`, `ARG1`, `ARG2`, in the acceptance step, and nothing else changes. -/
def Obligations.PackWritesPackedColor : Prop :=
  ∀ s : State, s.busy = false →
    exec .pack s = .next { s with
      arg0 := s.arg0.extractLsb' 3 5 ++ (s.arg1.extractLsb' 2 6 ++ s.arg2.extractLsb' 3 5) }

/-- 40_framebuffer_color.md R95: the printed formula is the field layout `{r[7:3], g[7:2], b[7:3]}`, its fields
do not overlap, so it is also their sum, and it is below `0x10000`. -/
def Obligations.PackFormulaIsFieldLayout : Prop :=
  ∀ r g b : Channel,
    packColor r g b = r.extractLsb' 3 5 ++ (g.extractLsb' 2 6 ++ b.extractLsb' 3 5) ∧
    packNat r.toNat g.toNat b.toNat =
      ((r.toNat &&& 0xF8) <<< 8) + ((g.toNat &&& 0xFC) <<< 3) + ((b.toNat >>> 3) &&& 0x1F) ∧
    packNat r.toNat g.toNat b.toNat < 0x10000

/-! ## The drawing commands: every write, in order -/

/-- 40_framebuffer_color.md R92: `CLEAR` is accepted whatever the operands are, performs exactly `SIZE` writes
of `0x0000` to the indices `0 .. SIZE-1` in ascending order, and leaves every cell 0. -/
def Obligations.ClearZeroesEveryCellInOrder : Prop :=
  ∀ s : State, s.busy = false →
    ∃ o, exec .clear s = .next { s with op := some o } ∧
      (s.Inv → s.inputs = [] →
        Performs (clearWrites s.size) { s with op := some o } ∧
        ∀ a, (applyWrites s.fb (clearWrites s.size)).read a = 0)

/-- 41_validate_pixel.md R113, R114: `PIXEL` at a point in bounds performs exactly one write, of the current
colour to cell `y*W + x`; at any other point it raises error 7 and changes nothing else. -/
def Obligations.PixelWritesOneCellOrRaises : Prop :=
  ∀ s : State, s.busy = false →
    (PointIn s.width s.height s.arg0.toInt s.arg1.toInt →
      ∃ o, exec .pixel s = .next { s with op := some o } ∧
        (s.inputs = [] →
          Performs [((s.arg1.toInt * s.width + s.arg0.toInt).toNat, s.color)] { s with op := some o })) ∧
    (¬ PointIn s.width s.height s.arg0.toInt s.arg1.toInt →
      exec .pixel s = .next { s with
        err := true, errcode := 7, events := .signalError 7 :: s.events })

/-- 42_line.md R125, R126, with the points of R132: `LINE` between two points in bounds performs exactly
`max(|x2-x1|, |y2-y1|) + 1` writes of the current colour, the `k`-th at R132's `k`-th point, no cell twice; if
either endpoint is out of bounds it raises error 8 and changes nothing else. -/
def Obligations.LineWritesClosedFormOrRaises : Prop :=
  ∀ s : State, s.busy = false →
    (PointIn s.width s.height s.arg0.toInt s.arg1.toInt →
      PointIn s.width s.height s.arg2.toInt s.arg3.toInt →
      ∃ o, exec .line s = .next { s with op := some o } ∧
        (lineWrites s.width s.color s.arg0.toInt s.arg1.toInt s.arg2.toInt s.arg3.toInt).Nodup ∧
        (s.inputs = [] →
          Performs (lineWrites s.width s.color s.arg0.toInt s.arg1.toInt s.arg2.toInt s.arg3.toInt)
            { s with op := some o })) ∧
    (¬(PointIn s.width s.height s.arg0.toInt s.arg1.toInt ∧
        PointIn s.width s.height s.arg2.toInt s.arg3.toInt) →
      exec .line s = .next { s with
        err := true, errcode := 8, events := .signalError 8 :: s.events })

/-- 43_rectangle.md R145, R147, R148: `RECT` with ordered corners in bounds performs exactly
`(x2-x1+1)*(y2-y1+1)` writes of the current colour, no cell twice, the `n`-th at column
`x1 + (n mod (x2-x1+1))`, row `y1 + floor(n / (x2-x1+1))`; otherwise it raises error 9 and changes nothing else. -/
def Obligations.RectWritesRowMajorOrRaises : Prop :=
  ∀ s : State, s.busy = false →
    (s.arg0.toInt ≤ s.arg2.toInt → s.arg1.toInt ≤ s.arg3.toInt →
      PointIn s.width s.height s.arg0.toInt s.arg1.toInt →
      PointIn s.width s.height s.arg2.toInt s.arg3.toInt →
      ∃ o, exec .rect s = .next { s with op := some o } ∧
        (rectWrites s.width s.color s.arg0.toInt s.arg1.toInt s.arg2.toInt s.arg3.toInt).Nodup ∧
        (s.inputs = [] →
          Performs (rectWrites s.width s.color s.arg0.toInt s.arg1.toInt s.arg2.toInt s.arg3.toInt)
            { s with op := some o })) ∧
    (¬(s.arg0.toInt ≤ s.arg2.toInt ∧ s.arg1.toInt ≤ s.arg3.toInt ∧
        PointIn s.width s.height s.arg0.toInt s.arg1.toInt ∧
        PointIn s.width s.height s.arg2.toInt s.arg3.toInt) →
      exec .rect s = .next { s with
        err := true, errcode := 9, events := .signalError 9 :: s.events })

/-- 44_circle.md R155, R159 to R161: `CIRCLE` with its centre and bounding box in bounds and `r >= 0` performs
exactly the four spans of every pair of the octant generator, in order, in the current colour. -/
def Obligations.CircleWritesOctantSpans : Prop :=
  ∀ s : State, s.busy = false → 0 ≤ s.arg2.toInt →
    PointIn s.width s.height (s.arg0.toInt - s.arg2.toInt) (s.arg1.toInt - s.arg2.toInt) →
    PointIn s.width s.height (s.arg0.toInt + s.arg2.toInt) (s.arg1.toInt + s.arg2.toInt) →
    ∃ o, exec .circle s = .next { s with op := some o } ∧
      (s.inputs = [] →
        Performs (circleWrites s.width s.color s.arg0.toInt s.arg1.toInt s.arg2.toInt)
          { s with op := some o })

/-- 44_circle.md R156, R157, R158: a centre out of bounds raises error 12 whatever `r` is; with the centre in
bounds, a negative `r` or a bounding box out of bounds raises error 13; nothing else changes. -/
def Obligations.CircleRaisesCenterThenRadius : Prop :=
  ∀ s : State, s.busy = false →
    (¬ PointIn s.width s.height s.arg0.toInt s.arg1.toInt →
      exec .circle s = .next { s with
        err := true, errcode := 12, events := .signalError 12 :: s.events }) ∧
    (PointIn s.width s.height s.arg0.toInt s.arg1.toInt →
      (s.arg2.toInt < 0 ∨ s.arg0.toInt - s.arg2.toInt < 0 ∨ s.width ≤ s.arg0.toInt + s.arg2.toInt ∨
        s.arg1.toInt - s.arg2.toInt < 0 ∨ s.height ≤ s.arg1.toInt + s.arg2.toInt) →
      exec .circle s = .next { s with
        err := true, errcode := 13, events := .signalError 13 :: s.events })

/-! ## What the algorithms guarantee -/

/-- 42_line.md R134: exchanging the endpoints changes nothing: the same latched operation, hence the same
sequence of writes. -/
def Obligations.LineIgnoresEndpointOrder : Prop :=
  ∀ s : State,
    ∃ o : Option Operation, ∃ e : Bool, ∃ c : Word, ∃ ev : List Event,
      exec .line s = .next { s with op := o, err := e, errcode := c, events := ev } ∧
      exec .line { s with arg0 := s.arg2, arg1 := s.arg3, arg2 := s.arg0, arg3 := s.arg1 } =
        .next { s with
          arg0 := s.arg2, arg1 := s.arg3, arg2 := s.arg0, arg3 := s.arg1
          op := o, err := e, errcode := c, events := ev }

/-- 42_line.md R133, R134: the path starts and ends at the two endpoints, stays in their bounding box, and
each point is a neighbour of the one before, one further along the driving axis. -/
def Obligations.LinePathIsConnected : Prop :=
  ∀ x1 y1 x2 y2 : Int,
    let n := max (x2 - x1).natAbs (y2 - y1).natAbs
    let p := linePoint x1 y1 x2 y2
    ((p 0 = (x1, y1) ∧ p n = (x2, y2)) ∨ (p 0 = (x2, y2) ∧ p n = (x1, y1))) ∧
    (∀ k ≤ n, min x1 x2 ≤ (p k).1 ∧ (p k).1 ≤ max x1 x2 ∧ min y1 y2 ≤ (p k).2 ∧ (p k).2 ≤ max y1 y2) ∧
    (∀ k < n,
      if (x2 - x1).natAbs < (y2 - y1).natAbs then
        (p (k + 1)).2 = (p k).2 + 1 ∧ ((p (k + 1)).1 - (p k).1).natAbs ≤ 1
      else (p (k + 1)).1 = (p k).1 + 1 ∧ ((p (k + 1)).2 - (p k).2).natAbs ≤ 1)

/-- 42_line.md R135 (b), (c): a horizontal or vertical line is the straight run between its ends, ascending. -/
def Obligations.StraightLinesAreRuns : Prop :=
  ∀ (w : Nat) (color : Word) (x1 y1 x2 y2 : Int),
    (y1 = y2 → lineWrites w color x1 y1 x2 y2 = hspanWrites w color y1 (min x1 x2) (max x1 x2)) ∧
    (x1 = x2 → lineWrites w color x1 y1 x2 y2 =
      (List.range ((y2 - y1).natAbs + 1)).map fun k => plotWrite w color x1 (min y1 y2 + k))

/-- 10_state.md R41: the error term starts at `2*dmin - dmaj`, is in `2*dmin - 2*dmaj .. 2*dmin` (upper bound
excluded) after every update, and with `dmaj <= 32766` it and the two increments lie in `-65532 .. 65532`. -/
def Obligations.LineErrorTermIsBounded : Prop :=
  ∀ (x1 y1 x2 y2 : Int) (k : Nat),
    let dmaj : Nat := max (x2 - x1).natAbs (y2 - y1).natAbs
    let dmin : Nat := min (x2 - x1).natAbs (y2 - y1).natAbs
    let l := lineSetup x1 y1 x2 y2
    let u := lineStep^[k] l
    l.var = 2 * (dmin : Int) - dmaj ∧
    (1 ≤ k → k ≤ dmaj → 2 * (dmin : Int) - 2 * dmaj ≤ u.var ∧ u.var < 2 * (dmin : Int)) ∧
    (k ≤ dmaj → dmaj ≤ 32766 →
      -65532 ≤ u.var ∧ u.var ≤ 65532 ∧ -65532 ≤ u.incf ∧ u.incf ≤ 65532 ∧
      -65532 ≤ u.incd ∧ u.incd ≤ 65532)

/-- 10_state.md R42 and 44_circle.md R162: the octant generator's states `(D1, D2, VAR)` in order; they are the
values of the machine's working registers, whatever the centre. -/
def Obligations.OctantGeneratorIsBounded : Prop :=
  ∀ (r : Int) (i : Nat) (g : Octant), 0 ≤ r → (octants r)[i]? = some g →
    g.1 = i ∧ 0 ≤ g.1 ∧ g.1 ≤ r ∧ 0 ≤ g.2.1 ∧ g.2.1 ≤ r ∧ -2 * r ≤ g.2.2 ∧ g.2.2 ≤ 2 * r + 5 ∧
    (r ≤ 16383 → -32766 ≤ g.2.2 ∧ g.2.2 ≤ 32771) ∧
    (i = 0 → g = (0, r, 1 - r)) ∧
    (∀ cx cy : Int,
      ((circleGenStep^[i] (circleSetup cx cy r)).d1, (circleGenStep^[i] (circleSetup cx cy r)).d2,
        (circleGenStep^[i] (circleSetup cx cy r)).var) = g) ∧
    (i + 1 < (octants r).length → g.1 < g.2.1 ∧ (octants r)[i + 1]? = some (octantStep g)) ∧
    (i + 1 = (octants r).length → g.2.1 ≤ g.1 ∧ g.1 ≤ g.2.1 + 1)

/-- 44_circle.md R166: the cells a circle touches are its four-fold symmetric set of rows, one unbroken run
centred on the centre's column in every row of the bounding box. -/
def Obligations.CircleTouchesSymmetricRuns : Prop :=
  ∀ (w h : Nat) (color : Word) (cx cy r : Int), 0 ≤ r →
    PointIn w h (cx - r) (cy - r) → PointIn w h (cx + r) (cy + r) →
    (∀ ex ey : Int, PointIn w h (cx + ex) (cy + ey) →
      (plotWrite w color (cx + ex) (cy + ey) ∈ circleWrites w color cx cy r ↔ CircleTouches r ex ey)) ∧
    (∀ ex ey : Int, CircleTouches r ex ey →
      CircleTouches r (-ex) ey ∧ CircleTouches r ex (-ey) ∧ CircleTouches r (-ex) (-ey)) ∧
    (∀ ey : Int, (∃ half : Int, 0 ≤ half ∧ half ≤ r ∧ ∀ ex : Int, CircleTouches r ex ey ↔ ex.natAbs ≤ half) ↔
      ey.natAbs ≤ r)

/-- 44_circle.md R165: the number of writes of a circle is the sum of `4*(D1 + D2) + 4` over its pairs, and
radius 0 touches the centre alone, four times. -/
def Obligations.CircleWriteCount : Prop :=
  ∀ (w : Nat) (color : Word) (cx cy r : Int), 0 ≤ r →
    ((circleWrites w color cx cy r).length : Int) = ((octants r).map fun g => 4 * (g.1 + g.2.1) + 4).sum ∧
    circleWrites w color cx cy 0 = List.replicate 4 (plotWrite w color cx cy)

/-- 43_rectangle.md R149 (c): the whole framebuffer as a rectangle is `CLEAR`'s index sequence with the colour. -/
def Obligations.WholeRectSweepsEveryCell : Prop :=
  ∀ (w h : Nat) (color : Word), geometryWf w h = true →
    rectWrites w color 0 0 (w - 1) (h - 1) = (List.range (w * h)).map fun a => (a, color)

/-- 20_memory.md R51: `(x, y) -> y*W + x` is a bijection from the in-bounds points onto `0 .. SIZE-1`. -/
def Obligations.CellIndexIsBijection : Prop :=
  ∀ w h : Nat,
    (∀ x y : Int, PointIn w h x y → 0 ≤ cellIndex w x y ∧ cellIndex w x y < (w * h : Nat)) ∧
    (∀ x y u v : Int, PointIn w h x y → PointIn w h u v → cellIndex w x y = cellIndex w u v →
      x = u ∧ y = v) ∧
    (∀ a : Nat, a < w * h → ∃ x y : Int, PointIn w h x y ∧ cellIndex w x y = a)

/-- 00_scope.md R8: `SIZE = W*H`; `AW` is `ceil(log2 SIZE)`, the least width whose words count `SIZE` cells, and
1 for a single cell; it is at most 30. -/
def Obligations.AddressWidthIsCeilLog : Prop :=
  ∀ s : State, geometryWf s.width s.height = true →
    s.size = s.width * s.height ∧ s.size ≤ 2 ^ addressWidth s ∧
    (s.size = 1 → addressWidth s = 1) ∧ (2 ≤ s.size → 2 ^ (addressWidth s - 1) < s.size) ∧
    addressWidth s ≤ 30

/-- 20_memory.md R63: after a sequence of writes each cell reads as the latest of them to it, or as before, and
the canonical form is kept. -/
def Obligations.WriteSequenceReadsBackLatest : Prop :=
  ∀ (m : Memory) (ws : List (Nat × Word)) (a : Nat), m.wf = true →
    (applyWrites m ws).wf = true ∧
    (applyWrites m ws).read a = ((ws.reverse.find? fun p => p.1 == a).map (·.2)).getD (m.read a)

/-! ## Frames -/

/-- 41_validate_pixel.md R116, R110: a drawing command on an idle block either latches an operation, or raises
an error and changes nothing but `ERR`, `ERRCODE` and the trace; its code is its primitive's. -/
def Obligations.DrawingIsWholeOrNothing : Prop :=
  ∀ (i : Instr) (s : State), s.busy = false →
    i = .pixel ∨ i = .line ∨ i = .rect ∨ i = .circle →
      (∃ o, exec i s = .next { s with op := some o }) ∨
      ∃ c : Word,
        exec i s = .next { s with err := true, errcode := c, events := .signalError c :: s.events } ∧
        (i = .pixel → c = 7) ∧ (i = .line → c = 8) ∧ (i = .rect → c = 9) ∧
        (i = .circle → c = 12 ∨ c = 13)

/-- 40_framebuffer_color.md R91: the frame of every command, in its acceptance step (no cell and no `DIRTY`
changes, and every register but those the command is said to change) and in its device steps. -/
def Obligations.CommandFrame : Prop :=
  (∀ (i : Instr) (s t : State), exec i s = .next t →
    (∀ a, t.fb.read a = s.fb.read a) ∧ t.dirty = s.dirty ∧
    t.arg1 = s.arg1 ∧ t.arg2 = s.arg2 ∧ t.arg3 = s.arg3 ∧ t.width = s.width ∧ t.height = s.height ∧
    (i ≠ .pack → t.arg0 = s.arg0) ∧ (i ≠ .setcolor → i ≠ .rstcolor → t.color = s.color) ∧
    (i = .setcolor ∨ i = .rstcolor ∨ i = .pack → t.op = s.op) ∧
    (i = .clear ∨ i = .setcolor ∨ i = .rstcolor ∨ i = .pack →
      t.err = s.err ∧ t.errcode = s.errcode ∧ t.events = s.events) ∧
    ((t.err ≠ s.err ∨ t.errcode ≠ s.errcode) → t.op = s.op ∧ t.events = .signalError t.errcode :: s.events) ∧
    t.inputs = s.inputs ∧ t.hostData = s.hostData ∧ t.displayData = s.displayData ∧ t.draws = s.draws) ∧
  (∀ s t : State, deviceStep s = .next t →
    t.arg0 = s.arg0 ∧ t.arg1 = s.arg1 ∧ t.arg2 = s.arg2 ∧ t.arg3 = s.arg3 ∧ t.color = s.color ∧
    t.err = s.err ∧ t.errcode = s.errcode ∧ t.width = s.width ∧ t.height = s.height ∧
    t.inputs = s.inputs ∧ t.hostData = s.hostData ∧ t.displayData = s.displayData ∧ t.draws = s.draws)

/-- 20_memory.md R52, 00_scope.md R12: a device step writes exactly the cell the operation's next write
addresses, sets `DIRTY`, emits `Write`, and changes nothing else but the operation's registers. -/
def Obligations.DeviceStepWritesOneCell : Prop :=
  ∀ (s : State) (o : Operation), s.Inv → s.inputs = [] → s.op = some o →
    ∃ a : Nat, (a : Int) = o.index s.width ∧ a < s.size ∧
      ∃ t, step s = .next t ∧
        t.fb.read a = o.value s.color ∧ (∀ b, b ≠ a → t.fb.read b = s.fb.read b) ∧
        t = { s with
          fb := t.fb
          op := o.advance s.size
          dirty := true
          events := .write a (o.value s.color) :: s.events }

/-- 00_scope.md R10: with the queue empty and no operation in progress nothing happens (log entries 2, 14). -/
def Obligations.IdleMachineKeepsItsState : Prop :=
  ∀ s : State, s.inputs = [] → s.busy = false → step s = .next s

/-! ## Whole-machine rules -/

/-- 20_memory.md R52: a cell changes only in a device step, while `BUSY = 1`, or by the reset input. -/
def Obligations.CellsChangeOnlyByDeviceOrReset : Prop :=
  ∀ s t : State, step s = .next t → (∃ a, t.fb.read a ≠ s.fb.read a) →
    (s.busy = true ∧ (s.inputs = [] ∨ ∃ rest, s.inputs = .device :: rest)) ∨ ∃ rest, s.inputs = .rst :: rest

/-- 00_scope.md R11: while an operation is in progress no step of the host or the display stops it, alters it
or touches anything it uses. -/
def Obligations.HostAndDisplayCannotDisturb : Prop :=
  ∀ (s t : State) (i : Input) (rest : List Input), step s = .next t → s.busy = true →
    s.inputs = i :: rest → i ≠ .device → i ≠ .rst →
      t.op = s.op ∧ t.fb = s.fb ∧ t.color = s.color ∧ t.arg0 = s.arg0 ∧ t.arg1 = s.arg1 ∧
      t.arg2 = s.arg2 ∧ t.arg3 = s.arg3 ∧ t.err = s.err ∧ t.errcode = s.errcode ∧ t.events = s.events ∧
      t.width = s.width ∧ t.height = s.height

/-- 10_state.md R24: `COLOR` changes only by `SETCOLOR`, by `RSTCOLOR` and by reset. -/
def Obligations.ColorChangesOnlyByColorCommands : Prop :=
  ∀ s t : State, step s = .next t → t.color ≠ s.color →
    (s.busy = false ∧ ∃ w rest, s.inputs = .hostWrite 0x0 w :: rest ∧
      (decode w = .ok .setcolor ∨ decode w = .ok .rstcolor)) ∨
    ∃ rest, s.inputs = .rst :: rest

/-- 10_state.md R27: `ERR` is cleared only by an accepted write of `STATUS` with bit 1 set and by reset, and
set only by a raised error. -/
def Obligations.ErrIsStickyUntilAcknowledged : Prop :=
  ∀ s t : State, step s = .next t →
    (s.err = true → t.err = false →
      (s.busy = false ∧ ∃ v rest, s.inputs = .hostWrite 0x6 v :: rest ∧ v.getLsbD 1 = true) ∨
      ∃ rest, s.inputs = .rst :: rest) ∧
    (s.err = false → t.err = true →
      s.busy = false ∧ (∃ w rest, s.inputs = .hostWrite 0x0 w :: rest) ∧
      t.events = .signalError t.errcode :: s.events)

/-- 10_state.md R28: `DIRTY` is cleared only by `AckDirty` and by reset, is set only by a step that emits a
`Write`, and every step that emits a `Write` sets it. -/
def Obligations.DirtyTracksWrites : Prop :=
  ∀ s t : State, step s = .next t →
    (s.dirty = true → t.dirty = false →
      (∃ rest, s.inputs = .ackDirty :: rest) ∨ ∃ rest, s.inputs = .rst :: rest) ∧
    (s.dirty = false → t.dirty = true → ∃ a v, t.events = .write a v :: s.events) ∧
    (∀ a v, t.events = .write a v :: s.events → t.dirty = true)

/-- 10_state.md R26: `BUSY` rises only in the acceptance step of a command that draws, and falls only in the
device step of the operation's last write or by reset. -/
def Obligations.BusyMarksTheOperation : Prop :=
  ∀ s t : State, step s = .next t →
    (s.busy = false → t.busy = true →
      ∃ w rest i, s.inputs = .hostWrite 0x0 w :: rest ∧ decode w = .ok i ∧
        (i = .clear ∨ i = .pixel ∨ i = .line ∨ i = .rect ∨ i = .circle)) ∧
    (s.busy = true → t.busy = false →
      ((s.inputs = [] ∨ ∃ rest, s.inputs = .device :: rest) ∧
        ∃ o, s.op = some o ∧ o.advance s.size = none) ∨
      ∃ rest, s.inputs = .rst :: rest)

/-- 10_state.md R40: `OP`, the opcode of the operation in progress, is the opcode of the command that was
accepted, and stays it. -/
def Obligations.OperationKeepsItsOpcode : Prop :=
  (∀ (i : Instr) (s t : State) (o : Operation), s.busy = false → exec i s = .next t → t.op = some o →
    o.opcode = i.opcode) ∧
  (∀ (o p : Operation) (size : Nat), o.advance size = some p → p.opcode = o.opcode)

/-- 10_state.md R25, 60_exceptions.md R186: `STATUS` is `{0[15:3], DIRTY, ERR, BUSY}` and the level outputs
`busy`, `err`, `dirty` mirror its bits 0, 1, 2. -/
def Obligations.StatusWordAndLevelOutputs : Prop :=
  ∀ s : State,
    (∀ j, (statusWord s).getLsbD j =
      if j = 0 then s.busy else if j = 1 then s.err else if j = 2 then s.dirty else false) ∧
    levelOutputs s = ((statusWord s).getLsbD 0, (statusWord s).getLsbD 1, (statusWord s).getLsbD 2)

/-- 70_reset_and_hazards.md R202: the framebuffer's size never changes, not even by reset. -/
def Obligations.GeometryNeverChanges : Prop :=
  ∀ s t : State, step s = .next t → t.width = s.width ∧ t.height = s.height ∧ t.size = s.size

/-- 00_scope.md R14: a step emits at most one event; only the reset input empties the trace. -/
def Obligations.StepEmitsAtMostOneEvent : Prop :=
  ∀ s t : State, step s = .next t →
    t.events = s.events ∨ (∃ e, t.events = e :: s.events) ∨
    ((∃ rest, s.inputs = .rst :: rest) ∧ t.events = [])

/-! ## Invariants, safety and progress -/

/-- The invariants hold after reset, at every legal geometry, and at the instance `State.reset` names, whose
size is the model's choice (log entry 1). -/
def Obligations.ResetMeetsInvariant : Prop :=
  (∀ w h : Nat, geometryWf w h = true →
    (State.resetOf w h).Inv ∧ (State.resetOf w h).ErrorAgrees ∧ (State.resetOf w h).CellsAgree) ∧
  State.reset.Inv ∧ State.reset.ErrorAgrees ∧ State.reset.CellsAgree

/-- 10_state.md R35, 20_memory.md R55: every step keeps the geometry legal, the framebuffer canonical with no
cell outside it, and the operation in progress inside it. -/
def Obligations.StepKeepsInvariant : Prop :=
  ∀ s t : State, s.Inv → step s = .next t → t.Inv

/-- 20_memory.md R55: in a safe state every step of every agent answers a next state: no `MemWrite` is ever
out of range, and no host or display action faults or is refused. -/
def Obligations.SafeStateAlwaysSteps : Prop :=
  ∀ s : State, s.Inv → ∃ t, step s = .next t

/-- 20_memory.md R56, R63: every step keeps every cell equal to the latest write of the trace to it. -/
def Obligations.StepKeepsCellsEqualToTrace : Prop :=
  ∀ s t : State, s.Inv → s.CellsAgree → step s = .next t → t.CellsAgree

/-- 10_state.md R27, R29: every step keeps `ERRCODE` one of the codes, and zero exactly while `ERR` is 0. -/
def Obligations.StepKeepsErrorCodeConsistent : Prop :=
  ∀ s t : State, s.ErrorAgrees → step s = .next t → t.ErrorAgrees

/-- Every command's acceptance step answers a next state, in every state; on a busy block it is the state
unchanged, since the command is not accepted (10_state.md R33; log entry 10). -/
def Obligations.EveryCommandAnswers : Prop :=
  ∀ (i : Instr) (s : State), (∃ t, exec i s = .next t) ∧ (s.busy = true → exec i s = .next s)

/-- 00_scope.md R15: an operation in progress ends after finitely many steps of the device (that an empty queue
gives the device the turn is the model's choice, log entry 2). -/
def Obligations.EveryOperationTerminates : Prop :=
  ∀ s : State, s.Inv → s.inputs = [] →
    ∃ n t, Host.Core.run Sys2Proof.core n s = .next t ∧ t.busy = false ∧ t.inputs = []

/-- 30_encoding.md R79, 20_memory.md R65: `WAIT` ends, with `BUSY = 0` and bit 0 of the value read clear (the
rounds it takes are the model's, log entry 13). -/
def Obligations.WaitEndsWithIdleBlock : Prop :=
  ∀ (s : State) (rest : List Input), s.Inv → s.inputs = .hostWait :: rest →
    ∃ n t, Host.Core.run Sys2Proof.core n s = .next t ∧
      t.inputs = rest ∧ t.busy = false ∧ t.hostData.getLsbD 0 = false

/-- 30_encoding.md R78: the base statements of the host script are its transactions: a command mnemonic issues
the command, `WR` is a host write and `RD` a host read. -/
def Obligations.ScriptStatementsAreTransactions : Prop :=
  ∀ (s : State) (rest : List Input),
    (∀ i : Instr, s.inputs = command i :: rest → s.busy = false →
      step s = exec i { s with inputs := rest }) ∧
    (∀ (reg : HostReg) (v : Word), s.inputs = wr reg v :: rest →
      step s = hostWrite reg.offset v { s with inputs := rest }) ∧
    (∀ reg : HostReg, s.inputs = rd reg :: rest →
      step s = .next { s with inputs := rest, hostData := hostRegister reg.offset s })
end

