-- ==== Sys2Proof/Laws/Memory.lean ====
section
/-! SUPPORT. The laws of the framebuffer: reading what was written, every other cell unchanged, and the
canonical form kept by every memory operation. -/

namespace Sys2Proof.Machine

@[simp] theorem read_nil (a : Nat) : Memory.read [] a = unlistedCell := rfl

theorem read_cons (b : Nat) (u : Word) (m : Memory) (a : Nat) :
    Memory.read ((b, u) :: m) a = if a = b then u else Memory.read m a := rfl

@[simp] theorem wf_nil : Memory.wf [] = true := rfl

theorem wfAbove_cons (lo b : Nat) (u : Word) (m : Memory) :
    Memory.wfAbove lo ((b, u) :: m) = true ↔
      lo ≤ b ∧ u ≠ unlistedCell ∧ Memory.wfAbove (b + 1) m = true := by
  simp [Memory.wfAbove]

theorem wfAbove_mono {lo lo' : Nat} (h : lo ≤ lo') :
    ∀ {m : Memory}, Memory.wfAbove lo' m = true → Memory.wfAbove lo m = true
  | [], _ => rfl
  | (b, u) :: m, hm => by
    rw [wfAbove_cons] at hm ⊢
    exact ⟨h.trans hm.1, hm.2⟩

/-- Below every listed index a cell reads as unlisted. -/
theorem read_below {lo a : Nat} (h : a < lo) :
    ∀ {m : Memory}, Memory.wfAbove lo m = true → Memory.read m a = unlistedCell
  | [], _ => rfl
  | (b, u) :: m, hm => by
    rw [wfAbove_cons] at hm
    have hab : a ≠ b := by omega
    rw [read_cons, if_neg hab]
    exact read_below (by omega) hm.2.2

theorem write_wfAbove {lo a : Nat} (v : Word) (h : lo ≤ a) :
    ∀ {m : Memory}, Memory.wfAbove lo m = true → Memory.wfAbove lo (Memory.write m a v) = true
  | [], _ => by
    by_cases hv : v = unlistedCell <;> simp [Memory.write, Memory.wfAbove, hv, h]
  | (b, u) :: m, hm => by
    have hb := (wfAbove_cons lo b u m).1 hm
    unfold Memory.write
    split
    · split
      · exact hm
      · rename_i hab hv
        rw [wfAbove_cons, wfAbove_cons]
        exact ⟨h, hv, by omega, hb.2⟩
    · split
      · split
        · exact wfAbove_mono (by omega) hb.2.2
        · rename_i hab hv
          rw [wfAbove_cons]
          exact ⟨h, hv, by subst hab; exact hb.2.2⟩
      · rw [wfAbove_cons]
        exact ⟨hb.1, hb.2.1, write_wfAbove v (by omega) hb.2.2⟩

/-- Writing a cell keeps the canonical form. -/
theorem write_wf {m : Memory} (a : Nat) (v : Word) (hm : m.wf = true) : (m.write a v).wf = true :=
  write_wfAbove v (Nat.zero_le a) hm

theorem read_write_same_above {lo a : Nat} (v : Word) :
    ∀ {m : Memory}, Memory.wfAbove lo m = true → Memory.read (Memory.write m a v) a = v
  | [], _ => by
    by_cases hv : v = unlistedCell <;> simp [Memory.write, read_cons, hv]
  | (b, u) :: m, hm => by
    have hb := (wfAbove_cons lo b u m).1 hm
    unfold Memory.write
    split
    · rename_i hab
      split
      · rename_i hv
        rw [read_cons, if_neg (by omega), hv]
        exact read_below (by omega) hb.2.2
      · rw [read_cons, if_pos rfl]
    · split
      · rename_i hab
        split
        · rename_i hv
          rw [hv]
          exact read_below (by omega) hb.2.2
        · rw [read_cons, if_pos rfl]
      · rename_i hab
        rw [read_cons, if_neg hab]
        exact read_write_same_above v hb.2.2

/-- A read after a write to the same cell gives the value written. -/
theorem read_write_same {m : Memory} (a : Nat) (v : Word) (hm : m.wf = true) :
    (m.write a v).read a = v :=
  read_write_same_above v hm

/-- A write leaves every other cell alone. -/
theorem read_write_other {a b : Nat} (v : Word) (h : b ≠ a) :
    ∀ m : Memory, Memory.read (Memory.write m a v) b = Memory.read m b
  | [] => by
    by_cases hv : v = unlistedCell <;> simp [Memory.write, read_cons, hv, h]
  | (c, u) :: m => by
    unfold Memory.write
    split
    · split
      · rfl
      · rw [read_cons, if_neg h]
    · split
      · rename_i hac
        split
        · rw [read_cons, if_neg (by omega)]
        · rw [read_cons, if_neg h, read_cons, if_neg (by omega)]
      · rw [read_cons, read_cons, read_write_other v h m]

/-- The cells a write can list: those listed before and the one written. -/
theorem mem_write {a : Nat} {v : Word} {p : Nat × Word} :
    ∀ {m : Memory}, p ∈ Memory.write m a v → p.1 = a ∨ p ∈ m
  | [], h => by
    by_cases hv : v = unlistedCell <;> simp [Memory.write, hv] at h
    exact .inl (by rw [h])
  | (c, u) :: m, h => by
    unfold Memory.write at h
    split at h
    · split at h
      · exact .inr h
      · rcases List.mem_cons.1 h with h | h
        · exact .inl (by rw [h])
        · exact .inr h
    · split at h
      · split at h
        · exact .inr (List.mem_cons_of_mem _ h)
        · rcases List.mem_cons.1 h with h | h
          · exact .inl (by rw [h])
          · exact .inr (List.mem_cons_of_mem _ h)
      · rcases List.mem_cons.1 h with h | h
        · exact .inr (by rw [h]; exact List.mem_cons_self)
        · rcases mem_write h with h | h
          · exact .inl h
          · exact .inr (List.mem_cons_of_mem _ h)

end Sys2Proof.Machine
end

