-- ==== Sys2Proof/Laws/State.lean ====
section
/-! SUPPORT. One lemma per field per update of the state, each true by unfolding, so that no proof unfolds a
record update. -/

namespace Sys2Proof.Machine

/-! ### `raiseError` -/

@[simp] theorem raiseError_width (e : ErrorKind) (s : State) : (raiseError e s).width = s.width := rfl
@[simp] theorem raiseError_height (e : ErrorKind) (s : State) : (raiseError e s).height = s.height := rfl
@[simp] theorem raiseError_fb (e : ErrorKind) (s : State) : (raiseError e s).fb = s.fb := rfl
@[simp] theorem raiseError_arg0 (e : ErrorKind) (s : State) : (raiseError e s).arg0 = s.arg0 := rfl
@[simp] theorem raiseError_arg1 (e : ErrorKind) (s : State) : (raiseError e s).arg1 = s.arg1 := rfl
@[simp] theorem raiseError_arg2 (e : ErrorKind) (s : State) : (raiseError e s).arg2 = s.arg2 := rfl
@[simp] theorem raiseError_arg3 (e : ErrorKind) (s : State) : (raiseError e s).arg3 = s.arg3 := rfl
@[simp] theorem raiseError_color (e : ErrorKind) (s : State) : (raiseError e s).color = s.color := rfl
@[simp] theorem raiseError_op (e : ErrorKind) (s : State) : (raiseError e s).op = s.op := rfl
@[simp] theorem raiseError_err (e : ErrorKind) (s : State) : (raiseError e s).err = true := rfl
@[simp] theorem raiseError_dirty (e : ErrorKind) (s : State) : (raiseError e s).dirty = s.dirty := rfl
@[simp] theorem raiseError_errcode (e : ErrorKind) (s : State) : (raiseError e s).errcode = e.code := rfl
@[simp] theorem raiseError_inputs (e : ErrorKind) (s : State) : (raiseError e s).inputs = s.inputs := rfl
@[simp] theorem raiseError_hostData (e : ErrorKind) (s : State) : (raiseError e s).hostData = s.hostData := rfl
@[simp] theorem raiseError_displayData (e : ErrorKind) (s : State) : (raiseError e s).displayData = s.displayData := rfl
@[simp] theorem raiseError_events (e : ErrorKind) (s : State) : (raiseError e s).events = .signalError e.code :: s.events := rfl
@[simp] theorem raiseError_draws (e : ErrorKind) (s : State) : (raiseError e s).draws = s.draws := rfl

/-! ### `acknowledgeError` -/

@[simp] theorem acknowledgeError_width (s : State) : (acknowledgeError s).width = s.width := rfl
@[simp] theorem acknowledgeError_height (s : State) : (acknowledgeError s).height = s.height := rfl
@[simp] theorem acknowledgeError_fb (s : State) : (acknowledgeError s).fb = s.fb := rfl
@[simp] theorem acknowledgeError_arg0 (s : State) : (acknowledgeError s).arg0 = s.arg0 := rfl
@[simp] theorem acknowledgeError_arg1 (s : State) : (acknowledgeError s).arg1 = s.arg1 := rfl
@[simp] theorem acknowledgeError_arg2 (s : State) : (acknowledgeError s).arg2 = s.arg2 := rfl
@[simp] theorem acknowledgeError_arg3 (s : State) : (acknowledgeError s).arg3 = s.arg3 := rfl
@[simp] theorem acknowledgeError_color (s : State) : (acknowledgeError s).color = s.color := rfl
@[simp] theorem acknowledgeError_op (s : State) : (acknowledgeError s).op = s.op := rfl
@[simp] theorem acknowledgeError_err (s : State) : (acknowledgeError s).err = false := rfl
@[simp] theorem acknowledgeError_dirty (s : State) : (acknowledgeError s).dirty = s.dirty := rfl
@[simp] theorem acknowledgeError_errcode (s : State) : (acknowledgeError s).errcode = 0 := rfl
@[simp] theorem acknowledgeError_inputs (s : State) : (acknowledgeError s).inputs = s.inputs := rfl
@[simp] theorem acknowledgeError_hostData (s : State) : (acknowledgeError s).hostData = s.hostData := rfl
@[simp] theorem acknowledgeError_displayData (s : State) : (acknowledgeError s).displayData = s.displayData := rfl
@[simp] theorem acknowledgeError_events (s : State) : (acknowledgeError s).events = s.events := rfl
@[simp] theorem acknowledgeError_draws (s : State) : (acknowledgeError s).draws = s.draws := rfl

/-! ### `beginOperation` -/

@[simp] theorem beginOperation_width (o : Operation) (s : State) : (beginOperation o s).width = s.width := rfl
@[simp] theorem beginOperation_height (o : Operation) (s : State) : (beginOperation o s).height = s.height := rfl
@[simp] theorem beginOperation_fb (o : Operation) (s : State) : (beginOperation o s).fb = s.fb := rfl
@[simp] theorem beginOperation_arg0 (o : Operation) (s : State) : (beginOperation o s).arg0 = s.arg0 := rfl
@[simp] theorem beginOperation_arg1 (o : Operation) (s : State) : (beginOperation o s).arg1 = s.arg1 := rfl
@[simp] theorem beginOperation_arg2 (o : Operation) (s : State) : (beginOperation o s).arg2 = s.arg2 := rfl
@[simp] theorem beginOperation_arg3 (o : Operation) (s : State) : (beginOperation o s).arg3 = s.arg3 := rfl
@[simp] theorem beginOperation_color (o : Operation) (s : State) : (beginOperation o s).color = s.color := rfl
@[simp] theorem beginOperation_op (o : Operation) (s : State) : (beginOperation o s).op = some o := rfl
@[simp] theorem beginOperation_err (o : Operation) (s : State) : (beginOperation o s).err = s.err := rfl
@[simp] theorem beginOperation_dirty (o : Operation) (s : State) : (beginOperation o s).dirty = s.dirty := rfl
@[simp] theorem beginOperation_errcode (o : Operation) (s : State) : (beginOperation o s).errcode = s.errcode := rfl
@[simp] theorem beginOperation_inputs (o : Operation) (s : State) : (beginOperation o s).inputs = s.inputs := rfl
@[simp] theorem beginOperation_hostData (o : Operation) (s : State) : (beginOperation o s).hostData = s.hostData := rfl
@[simp] theorem beginOperation_displayData (o : Operation) (s : State) : (beginOperation o s).displayData = s.displayData := rfl
@[simp] theorem beginOperation_events (o : Operation) (s : State) : (beginOperation o s).events = s.events := rfl
@[simp] theorem beginOperation_draws (o : Operation) (s : State) : (beginOperation o s).draws = s.draws := rfl

/-! ### `placeCommand` -/

@[simp] theorem placeCommand_width (w : Word) (s : State) : (placeCommand w s).width = s.width := rfl
@[simp] theorem placeCommand_height (w : Word) (s : State) : (placeCommand w s).height = s.height := rfl
@[simp] theorem placeCommand_fb (w : Word) (s : State) : (placeCommand w s).fb = s.fb := rfl
@[simp] theorem placeCommand_arg0 (w : Word) (s : State) : (placeCommand w s).arg0 = s.arg0 := rfl
@[simp] theorem placeCommand_arg1 (w : Word) (s : State) : (placeCommand w s).arg1 = s.arg1 := rfl
@[simp] theorem placeCommand_arg2 (w : Word) (s : State) : (placeCommand w s).arg2 = s.arg2 := rfl
@[simp] theorem placeCommand_arg3 (w : Word) (s : State) : (placeCommand w s).arg3 = s.arg3 := rfl
@[simp] theorem placeCommand_color (w : Word) (s : State) : (placeCommand w s).color = s.color := rfl
@[simp] theorem placeCommand_op (w : Word) (s : State) : (placeCommand w s).op = none := rfl
@[simp] theorem placeCommand_err (w : Word) (s : State) : (placeCommand w s).err = s.err := rfl
@[simp] theorem placeCommand_dirty (w : Word) (s : State) : (placeCommand w s).dirty = s.dirty := rfl
@[simp] theorem placeCommand_errcode (w : Word) (s : State) : (placeCommand w s).errcode = s.errcode := rfl
@[simp] theorem placeCommand_inputs (w : Word) (s : State) : (placeCommand w s).inputs = .hostWrite 0x0 w :: s.inputs := rfl
@[simp] theorem placeCommand_hostData (w : Word) (s : State) : (placeCommand w s).hostData = s.hostData := rfl
@[simp] theorem placeCommand_displayData (w : Word) (s : State) : (placeCommand w s).displayData = s.displayData := rfl
@[simp] theorem placeCommand_events (w : Word) (s : State) : (placeCommand w s).events = s.events := rfl
@[simp] theorem placeCommand_draws (w : Word) (s : State) : (placeCommand w s).draws = s.draws := rfl

/-! ### The reset state -/

@[simp] theorem resetOf_width (w h : Nat) : (State.resetOf w h).width = w := rfl
@[simp] theorem resetOf_height (w h : Nat) : (State.resetOf w h).height = h := rfl
@[simp] theorem resetOf_fb (w h : Nat) : (State.resetOf w h).fb = [] := rfl
@[simp] theorem resetOf_arg0 (w h : Nat) : (State.resetOf w h).arg0 = 0 := rfl
@[simp] theorem resetOf_arg1 (w h : Nat) : (State.resetOf w h).arg1 = 0 := rfl
@[simp] theorem resetOf_arg2 (w h : Nat) : (State.resetOf w h).arg2 = 0 := rfl
@[simp] theorem resetOf_arg3 (w h : Nat) : (State.resetOf w h).arg3 = 0 := rfl
@[simp] theorem resetOf_color (w h : Nat) : (State.resetOf w h).color = 0xFFFF := rfl
@[simp] theorem resetOf_op (w h : Nat) : (State.resetOf w h).op = none := rfl
@[simp] theorem resetOf_err (w h : Nat) : (State.resetOf w h).err = false := rfl
@[simp] theorem resetOf_dirty (w h : Nat) : (State.resetOf w h).dirty = false := rfl
@[simp] theorem resetOf_errcode (w h : Nat) : (State.resetOf w h).errcode = 0 := rfl
@[simp] theorem resetOf_inputs (w h : Nat) : (State.resetOf w h).inputs = [] := rfl
@[simp] theorem resetOf_hostData (w h : Nat) : (State.resetOf w h).hostData = 0 := rfl
@[simp] theorem resetOf_displayData (w h : Nat) : (State.resetOf w h).displayData = 0 := rfl
@[simp] theorem resetOf_events (w h : Nat) : (State.resetOf w h).events = [] := rfl
@[simp] theorem resetOf_draws (w h : Nat) : (State.resetOf w h).draws = 0 := rfl

end Sys2Proof.Machine
end

