-- ==== Sys2Proof/Laws/Ops.lean ====
section
/-! SUPPORT. What each shared operation can do, said once: the bounds test, the operand readings, the write
primitive, the acceptance step and the device step. -/

namespace Sys2Proof.Machine

/-! ### Operands and bounds -/

/-- The operand reading `S16` is the two's-complement reading (00_scope.md R16). -/
theorem s16_eq_toInt (v : Word) : s16 v = v.toInt := by
  unfold s16
  rw [BitVec.toInt_eq_toNat_cond]
  have := v.isLt
  split <;> split <;> omega

theorem inBounds_iff (s : State) (x y : Int) :
    inBounds s x y = true ↔ PointIn s.width s.height x y := by
  simp [inBounds, PointIn]

theorem geometryWf_iff (w h : Nat) :
    geometryWf w h = true ↔ 1 ≤ w ∧ w ≤ 32767 ∧ 1 ≤ h ∧ h ≤ 32767 := by
  unfold geometryWf Config.maxExtent
  exact decide_eq_true_iff

/-- The index of a point inside the grid is inside the framebuffer (20_memory.md R51, R55). -/
theorem cellIndex_bounds {w h : Nat} {x y : Int} (hp : PointIn w h x y) :
    0 ≤ cellIndex w x y ∧ cellIndex w x y < (w * h : Nat) := by
  obtain ⟨hx0, hxw, hy0, hyh⟩ := hp
  unfold cellIndex
  have h0 : 0 ≤ y * (w : Int) := mul_nonneg hy0 (by omega)
  have h1 : (y + 1) * (w : Int) ≤ h * w := mul_le_mul_of_nonneg_right (by omega) (by omega)
  have h2 : (y + 1) * (w : Int) = y * w + w := by ring
  have h3 : ((w * h : Nat) : Int) = h * w := by push_cast; ring
  omega

/-! ### The flags -/

@[simp] theorem busy_none {s : State} (h : s.op = none) : s.busy = false := by simp [State.busy, h]

@[simp] theorem busy_some {s : State} {o : Operation} (h : s.op = some o) : s.busy = true := by
  simp [State.busy, h]

theorem busy_eq_false {s : State} : s.busy = false ↔ s.op = none := by
  simp [State.busy]

theorem statusWord_busyBit (s : State) : (statusWord s).getLsbD 0 = s.busy := by
  unfold statusWord
  cases s.dirty <;> cases s.err <;> cases s.busy <;> rfl

/-! ### `accept` -/

/-- An idle block accepts the command. -/
theorem accept_idle (body : State → State) {s : State} (h : s.op = none) :
    accept body s = .next (body s) := by
  simp [accept, busy_none h]

/-- A busy block does not (10_state.md R33). -/
theorem accept_busy (body : State → State) {s : State} {o : Operation} (h : s.op = some o) :
    accept body s = .next s := by
  simp [accept, busy_some h]

/-! ### `memWrite` and the device step -/

theorem memWrite_inside {a : Int} (v : Word) {s : State} (h : 0 ≤ a ∧ a < s.size) :
    memWrite a v s = .next { s with
      fb := s.fb.write a.toNat v, dirty := true, events := .write a.toNat v :: s.events } := by
  simp only [memWrite, if_pos h]

theorem memWrite_outside {a : Int} (v : Word) {s : State} (h : ¬(0 ≤ a ∧ a < s.size)) :
    memWrite a v s = .fault .writeOutOfRange := by
  simp only [memWrite, if_neg h]

theorem deviceStep_idle {s : State} (h : s.op = none) : deviceStep s = .next s := by
  simp [deviceStep, h]

/-- A device step on an operation whose next write is inside the framebuffer. -/
theorem deviceStep_inside {s : State} {o : Operation} (ho : s.op = some o)
    (h : 0 ≤ o.index s.width ∧ o.index s.width < s.size) :
    deviceStep s = .next { s with
      op := o.advance s.size
      fb := s.fb.write (o.index s.width).toNat (o.value s.color)
      dirty := true
      events := .write (o.index s.width).toNat (o.value s.color) :: s.events } := by
  simp only [deviceStep, ho, memWrite_inside (o.value s.color) h, moveOn]

theorem deviceStep_outside {s : State} {o : Operation} (ho : s.op = some o)
    (h : ¬(0 ≤ o.index s.width ∧ o.index s.width < s.size)) :
    deviceStep s = .fault .writeOutOfRange := by
  simp only [deviceStep, ho, memWrite_outside (o.value s.color) h, moveOn]

/-- Everything a device step that answers a next state can have done. -/
theorem deviceStep_cases {s t : State} (h : deviceStep s = .next t) :
    (s.op = none ∧ t = s) ∨
    ∃ o, s.op = some o ∧ (0 ≤ o.index s.width ∧ o.index s.width < s.size) ∧
      t = { s with
        op := o.advance s.size
        fb := s.fb.write (o.index s.width).toNat (o.value s.color)
        dirty := true
        events := .write (o.index s.width).toNat (o.value s.color) :: s.events } := by
  cases ho : s.op with
  | none =>
    rw [deviceStep_idle ho] at h
    exact .inl ⟨rfl, by injection h with h; exact h.symm⟩
  | some o =>
    by_cases hr : 0 ≤ o.index s.width ∧ o.index s.width < s.size
    · rw [deviceStep_inside ho hr] at h
      exact .inr ⟨o, rfl, hr, by injection h with h; exact h.symm⟩
    · rw [deviceStep_outside ho hr] at h
      cases h

end Sys2Proof.Machine
end

