-- ==== Sys2Proof/Laws/Operations.lean ====
section
/-! SUPPORT. Per family: what starting and advancing an operation does, and that both keep the operation
inside the framebuffer (20_memory.md R55). -/

namespace Sys2Proof.Machine

/-! ### CLEAR -/

theorem clearAdvance_some {size idx j : Nat} (h : clearAdvance size idx = some j) :
    j = idx + 1 ∧ idx + 1 < size := by
  unfold clearAdvance at h
  split at h
  · injection h with h; exact ⟨h.symm, ‹_›⟩
  · cases h

/-! ### LINE -/

theorem lineAdvance_some {l k : LineRegs} (h : lineAdvance l = some k) : l.maj < l.last ∧ k = lineStep l := by
  unfold lineAdvance at h
  split at h
  · injection h with h; exact ⟨‹_›, h.symm⟩
  · cases h

@[simp] theorem lineStep_maj (l : LineRegs) : (lineStep l).maj = l.maj + 1 := by
  unfold lineStep; split <;> rfl

@[simp] theorem lineStep_last (l : LineRegs) : (lineStep l).last = l.last := by
  unfold lineStep; split <;> rfl

@[simp] theorem lineStep_step (l : LineRegs) : (lineStep l).step = l.step := by
  unfold lineStep; split <;> rfl

@[simp] theorem lineStep_overY (l : LineRegs) : (lineStep l).overY = l.overY := by
  unfold lineStep; split <;> rfl

@[simp] theorem lineStep_incf (l : LineRegs) : (lineStep l).incf = l.incf := by
  unfold lineStep; split <;> rfl

@[simp] theorem lineStep_incd (l : LineRegs) : (lineStep l).incd = l.incd := by
  unfold lineStep; split <;> rfl

/-- `VAR < 0`: the secondary coordinate stays (42_line.md R130). -/
theorem lineStep_flat {l : LineRegs} (h : l.var < 0) :
    lineStep l = { l with var := l.var + l.incf, maj := l.maj + 1 } := by
  rw [lineStep, if_pos h]

/-- `VAR >= 0`: the secondary coordinate moves by `STEP` (42_line.md R130). -/
theorem lineStep_diagonal {l : LineRegs} (h : ¬ l.var < 0) :
    lineStep l =
      { l with var := l.var + l.incd, min := l.min + stepSign l.step, maj := l.maj + 1 } := by
  rw [lineStep, if_neg h]

theorem stepSign_cases (d : Direction) : stepSign d = 1 ∨ stepSign d = -1 := by
  cases d <;> simp [stepSign]

/-- A line that starts at a point of the grid and ends at another stays inside the grid. -/
theorem lineStart_inv {w h : Nat} {overY : Bool} {maj min last mend dmaj dmin : Int}
    (hm : maj ≤ last) (hmaj : dmaj = last - maj) (hmin : dmin = (mend - min).natAbs)
    (h1 : PointIn w h (if overY then min else maj) (if overY then maj else min))
    (h2 : PointIn w h (if overY then mend else last) (if overY then last else mend)) :
    (lineStart overY maj min last mend dmaj dmin).Inv w h := by
  have hend : min + stepSign (if min > mend then .minus else .plus) * dmin = mend := by
    subst hmin
    split <;> simp only [stepSign] <;> omega
  refine ⟨dmin, dmaj, by omega, hm, by simp [lineStart, hmaj], by simp only [lineStart]; omega,
    by simp only [lineStart], ?_, h1, ?_⟩
  · subst hmaj
    simp only [lineStart]
    ring
  · simpa only [lineColumn, lineRow, lineStart, hend] using h2

theorem lineSetup_inv {w h : Nat} {x1 y1 x2 y2 : Int} (h1 : PointIn w h x1 y1) (h2 : PointIn w h x2 y2) :
    (lineSetup x1 y1 x2 y2).Inv w h := by
  unfold lineSetup
  simp only
  split <;> split
  · exact lineStart_inv (by omega) (by omega) (by omega) (by simpa using h2) (by simpa using h1)
  · exact lineStart_inv (by omega) (by omega) (by omega) (by simpa using h1) (by simpa using h2)
  · exact lineStart_inv (by omega) (by omega) (by omega) (by simpa using h2) (by simpa using h1)
  · exact lineStart_inv (by omega) (by omega) (by omega) (by simpa using h1) (by simpa using h2)

/-- The error term is negative when no secondary step is left: it pins the stepper (42_line.md R132). -/
theorem lineVar_neg {n d i : Int} (hn : 1 ≤ n) (hd : n ≤ d) (hi : 0 ≤ i) :
    i * (1 - n) + (2 * 0 - 1) * d < 0 := by
  have : i * (1 - n) ≤ 0 := mul_nonpos_of_nonneg_of_nonpos hi (by omega)
  omega

theorem lineStep_inv {w h : Nat} {l : LineRegs} (hl : l.maj < l.last) (hi : l.Inv w h) :
    (lineStep l).Inv w h := by
  obtain ⟨m, d, hm, -, hd, hf, hincd, hvar, hp, hq⟩ := hi
  simp only [PointIn, lineColumn, lineRow] at hp hq
  by_cases hv : l.var < 0
  · rw [lineStep_flat hv]
    refine ⟨m, d, hm, by simp only; omega, by simp only; omega, hf, hincd, ?_, ?_, hq⟩
    · simp only [hvar]; ring
    · simp only [PointIn, lineColumn, lineRow]
      cases ho : l.overY <;> simp only [ho, if_true, if_false, Bool.false_eq_true] at hp hq ⊢ <;> omega
  · have hm1 : 1 ≤ m := by
      by_contra hlt
      have h0 : m = 0 := by omega
      subst h0
      have := lineVar_neg (n := l.last - l.maj) (d := d) (by omega) hd hf
      omega
    rw [lineStep_diagonal hv]
    refine ⟨m - 1, d, by omega, by simp only; omega, by simp only; omega, hf, hincd, ?_, ?_, ?_⟩
    · simp only [hvar, hincd]; ring
    · simp only [PointIn, lineColumn, lineRow]
      cases ho : l.overY <;> cases hs : l.step <;>
        simp only [ho, hs, stepSign, if_true, if_false, Bool.false_eq_true] at hp hq ⊢ <;> omega
    · have he : l.min + stepSign l.step + stepSign l.step * (m - 1) = l.min + stepSign l.step * m := by ring
      simpa only [PointIn, lineColumn, lineRow, he] using hq

/-! ### RECT -/

theorem rectAdvance_some {q r : RectRegs} (h : rectAdvance q = some r) :
    (q.rx < q.rx2 ∧ r = { q with rx := q.rx + 1 }) ∨
    (¬ q.rx < q.rx2 ∧ q.ry < q.ry2 ∧ r = { q with rx := q.rx1, ry := q.ry + 1 }) := by
  unfold rectAdvance at h
  split at h
  · injection h with h; exact .inl ⟨‹_›, h.symm⟩
  · split at h
    · injection h with h; exact .inr ⟨‹_›, ‹_›, h.symm⟩
    · cases h

theorem rectValid_iff (s : State) (x1 y1 x2 y2 : Int) :
    rectValid s x1 y1 x2 y2 = true ↔
      x1 ≤ x2 ∧ y1 ≤ y2 ∧ PointIn s.width s.height x1 y1 ∧ PointIn s.width s.height x2 y2 := by
  simp [rectValid, inBounds_iff]

theorem rectSetup_inv {w h : Nat} {x1 y1 x2 y2 : Int} (hx : x1 ≤ x2) (hy : y1 ≤ y2)
    (h1 : PointIn w h x1 y1) (h2 : PointIn w h x2 y2) : (rectSetup x1 y1 x2 y2).Inv w h :=
  ⟨le_refl _, hx, hy, h1, h2⟩

theorem rectAdvance_inv {w h : Nat} {q r : RectRegs} (hr : rectAdvance q = some r) (hi : q.Inv w h) :
    r.Inv w h := by
  obtain ⟨ha, hb, hc, hd, he⟩ := hi
  simp only [PointIn] at hd he
  rcases rectAdvance_some hr with ⟨hlt, rfl⟩ | ⟨-, hlt, rfl⟩ <;>
    simp only [RectRegs.Inv, PointIn] <;> omega

/-! ### CIRCLE -/

theorem circleFits_iff (s : State) (cx cy r : Int) :
    circleFits s cx cy r = true ↔
      0 ≤ r ∧ PointIn s.width s.height (cx - r) (cy - r) ∧ PointIn s.width s.height (cx + r) (cy + r) := by
  simp [circleFits, inBounds_iff]

/-- Everything an advance of the circle rasterizer can be. -/
theorem circleAdvance_some {c e : CircleRegs} (h : circleAdvance c = some e) :
    (c.sx < c.cx + spanHalf c.span c.d1 c.d2 ∧ e = { c with sx := c.sx + 1 }) ∨
    (∃ sp, e = enterSpan sp c) ∨
    (c.d2 > c.d1 ∧ e = enterSpan .upperFirst (circleGenStep c)) := by
  unfold circleAdvance at h
  split at h
  · injection h with h; exact .inl ⟨‹_›, h.symm⟩
  · split at h
    · injection h with h; exact .inr (.inl ⟨_, h.symm⟩)
    · injection h with h; exact .inr (.inl ⟨_, h.symm⟩)
    · injection h with h; exact .inr (.inl ⟨_, h.symm⟩)
    · split at h
      · injection h with h; exact .inr (.inr ⟨‹_›, h.symm⟩)
      · cases h

theorem spanHalf_nonneg {d1 d2 : Int} (h1 : 0 ≤ d1) (h2 : 0 ≤ d2) (sp : SpanId) : 0 ≤ spanHalf sp d1 d2 := by
  cases sp <;> assumption

theorem enterSpan_inv {w h : Nat} {c : CircleRegs} (sp : SpanId) (hi : c.Inv w h) :
    (enterSpan sp c).Inv w h := by
  obtain ⟨h1, h2, ha, hb, hc, hd, -, -⟩ := hi
  have := spanHalf_nonneg h1 h2 sp
  exact ⟨h1, h2, ha, hb, hc, hd, by simp only [enterSpan]; omega, by simp only [enterSpan]; omega⟩

theorem circleSetup_inv {w h : Nat} {cx cy r : Int} (h0 : 0 ≤ r)
    (h1 : PointIn w h (cx - r) (cy - r)) (h2 : PointIn w h (cx + r) (cy + r)) :
    (circleSetup cx cy r).Inv w h := by
  simp only [PointIn] at h1 h2
  simp only [circleSetup, enterSpan, CircleRegs.Inv, PointIn, spanHalf]
  omega

/-- The generator's new offsets are still inside the grid, because `D1` never passes `D2` by more than one
step and `D2` never grows (44_circle.md R162, R164). -/
theorem circleGenStep_inv {w h : Nat} {c : CircleRegs} (hlt : c.d2 > c.d1) (hi : c.Inv w h) :
    (enterSpan .upperFirst (circleGenStep c)).Inv w h := by
  obtain ⟨h1, h2, ha, hb, hc, hd, -, -⟩ := hi
  simp only [PointIn] at ha hb hc hd
  unfold circleGenStep
  split <;> simp only [enterSpan, CircleRegs.Inv, PointIn, spanHalf] <;> omega

theorem circleAdvance_inv {w h : Nat} {c e : CircleRegs} (he : circleAdvance c = some e) (hi : c.Inv w h) :
    e.Inv w h := by
  rcases circleAdvance_some he with ⟨hlt, rfl⟩ | ⟨sp, rfl⟩ | ⟨hlt, rfl⟩
  · obtain ⟨h1, h2, ha, hb, hc, hd, hl, -⟩ := hi
    exact ⟨h1, h2, ha, hb, hc, hd, by simp only; omega, by simp only; omega⟩
  · exact enterSpan_inv sp hi
  · exact circleGenStep_inv hlt hi

/-! ### Every operation -/

/-- The next write of an operation that satisfies its invariant is inside the framebuffer. -/
theorem operation_index_inside {w h : Nat} {o : Operation} (hi : o.Inv w h) :
    0 ≤ o.index w ∧ o.index w < (w * h : Nat) := by
  cases o with
  | clear idx => simp only [Operation.Inv, Operation.index] at *; omega
  | pixel x y => exact cellIndex_bounds hi
  | line l => obtain ⟨m, d, -, -, -, -, -, -, hp, -⟩ := hi; exact cellIndex_bounds hp
  | rect q =>
    obtain ⟨ha, hb, hc, hd, he⟩ := hi
    simp only [PointIn] at hd he
    exact cellIndex_bounds (by simp only [PointIn]; omega)
  | circle c =>
    obtain ⟨h1, h2, ha, hb, hc, hd, hl, hr⟩ := hi
    simp only [PointIn] at ha hb hc hd
    refine cellIndex_bounds ?_
    cases hs : c.span <;> simp only [hs, spanHalf, spanRow, PointIn] at hl hr ⊢ <;> omega

/-- Advancing keeps the invariant. -/
theorem operation_advance_inv {w h : Nat} {o p : Operation} (hi : o.Inv w h)
    (hp : o.advance (w * h) = some p) : p.Inv w h := by
  cases o with
  | clear idx =>
    simp only [Operation.advance, Option.map_eq_some_iff] at hp
    obtain ⟨j, hj, rfl⟩ := hp
    obtain ⟨rfl, hlt⟩ := clearAdvance_some hj
    exact hlt
  | pixel x y => simp [Operation.advance] at hp
  | line l =>
    simp only [Operation.advance, Option.map_eq_some_iff] at hp
    obtain ⟨k, hk, rfl⟩ := hp
    obtain ⟨hlt, rfl⟩ := lineAdvance_some hk
    exact lineStep_inv hlt hi
  | rect q =>
    simp only [Operation.advance, Option.map_eq_some_iff] at hp
    obtain ⟨r, hr, rfl⟩ := hp
    exact rectAdvance_inv hr hi
  | circle c =>
    simp only [Operation.advance, Option.map_eq_some_iff] at hp
    obtain ⟨e, he, rfl⟩ := hp
    exact circleAdvance_inv he hi

end Sys2Proof.Machine
end

