-- ==== Sys2Proof/Laws/Exec.lean ====
section
/-! SUPPORT. What the acceptance step of each command answers, one lemma per outcome, with the operands and
the bounds test in the spec's terms. -/

namespace Sys2Proof.Machine

theorem exec_busy (i : Instr) {s : State} {o : Operation} (h : s.op = some o) : exec i s = .next s := by
  cases i <;> simp only [exec, execClear, execSetcolor, execRstcolor, execPack, execPixel, execLine, execRect,
    execCircle, accept_busy _ h]

theorem exec_clear {s : State} (h : s.op = none) :
    exec .clear s = .next (beginOperation (.clear 0) s) := accept_idle _ h

theorem exec_setcolor {s : State} (h : s.op = none) :
    exec .setcolor s = .next { s with color := s.arg0 } := by
  simp only [exec, execSetcolor, accept_idle _ h, raw16]

theorem exec_rstcolor {s : State} (h : s.op = none) :
    exec .rstcolor s = .next { s with color := 0xFFFF } := by
  simp only [exec, execRstcolor, accept_idle _ h]

theorem exec_pack {s : State} (h : s.op = none) :
    exec .pack s = .next { s with arg0 := packColor (u8 s.arg0) (u8 s.arg1) (u8 s.arg2) } := by
  simp only [exec, execPack, accept_idle _ h]

theorem exec_pixel_drawn {s : State} (h : s.op = none)
    (hp : PointIn s.width s.height s.arg0.toInt s.arg1.toInt) :
    exec .pixel s = .next (beginOperation (.pixel s.arg0.toInt s.arg1.toInt) s) := by
  simp only [exec, execPixel, accept_idle _ h, s16_eq_toInt, if_pos ((inBounds_iff _ _ _).2 hp)]

theorem exec_pixel_rejected {s : State} (h : s.op = none)
    (hp : ¬ PointIn s.width s.height s.arg0.toInt s.arg1.toInt) :
    exec .pixel s = .next (raiseError .illegalPixelCoordinates s) := by
  simp only [exec, execPixel, accept_idle _ h, s16_eq_toInt, if_neg (mt (inBounds_iff _ _ _).1 hp)]

theorem exec_line_drawn {s : State} (h : s.op = none)
    (h1 : PointIn s.width s.height s.arg0.toInt s.arg1.toInt)
    (h2 : PointIn s.width s.height s.arg2.toInt s.arg3.toInt) :
    exec .line s =
      .next (beginOperation (.line (lineSetup s.arg0.toInt s.arg1.toInt s.arg2.toInt s.arg3.toInt)) s) := by
  simp only [exec, execLine, accept_idle _ h, s16_eq_toInt, (inBounds_iff _ _ _).2 h1,
    (inBounds_iff _ _ _).2 h2, Bool.and_self, if_true]

theorem exec_line_rejected {s : State} (h : s.op = none)
    (hp : ¬(PointIn s.width s.height s.arg0.toInt s.arg1.toInt ∧
      PointIn s.width s.height s.arg2.toInt s.arg3.toInt)) :
    exec .line s = .next (raiseError .illegalLineCoordinates s) := by
  have hb : ¬((inBounds s s.arg0.toInt s.arg1.toInt && inBounds s s.arg2.toInt s.arg3.toInt) = true) := by
    rwa [Bool.and_eq_true, inBounds_iff, inBounds_iff]
  simp only [exec, execLine, accept_idle _ h, s16_eq_toInt, if_neg hb]

theorem exec_rect_drawn {s : State} (h : s.op = none) (hx : s.arg0.toInt ≤ s.arg2.toInt)
    (hy : s.arg1.toInt ≤ s.arg3.toInt)
    (h1 : PointIn s.width s.height s.arg0.toInt s.arg1.toInt)
    (h2 : PointIn s.width s.height s.arg2.toInt s.arg3.toInt) :
    exec .rect s =
      .next (beginOperation (.rect (rectSetup s.arg0.toInt s.arg1.toInt s.arg2.toInt s.arg3.toInt)) s) := by
  simp only [exec, execRect, accept_idle _ h, s16_eq_toInt,
    if_pos ((rectValid_iff _ _ _ _ _).2 ⟨hx, hy, h1, h2⟩)]

theorem exec_rect_rejected {s : State} (h : s.op = none)
    (hp : ¬(s.arg0.toInt ≤ s.arg2.toInt ∧ s.arg1.toInt ≤ s.arg3.toInt ∧
      PointIn s.width s.height s.arg0.toInt s.arg1.toInt ∧
      PointIn s.width s.height s.arg2.toInt s.arg3.toInt)) :
    exec .rect s = .next (raiseError .illegalRectangleCoordinates s) := by
  simp only [exec, execRect, accept_idle _ h, s16_eq_toInt, if_neg (mt (rectValid_iff _ _ _ _ _).1 hp)]

theorem exec_circle_drawn {s : State} (h : s.op = none)
    (hc : PointIn s.width s.height s.arg0.toInt s.arg1.toInt) (hr : 0 ≤ s.arg2.toInt)
    (h1 : PointIn s.width s.height (s.arg0.toInt - s.arg2.toInt) (s.arg1.toInt - s.arg2.toInt))
    (h2 : PointIn s.width s.height (s.arg0.toInt + s.arg2.toInt) (s.arg1.toInt + s.arg2.toInt)) :
    exec .circle s =
      .next (beginOperation (.circle (circleSetup s.arg0.toInt s.arg1.toInt s.arg2.toInt)) s) := by
  simp only [exec, execCircle, accept_idle _ h, s16_eq_toInt, if_pos ((inBounds_iff _ _ _).2 hc),
    if_pos ((circleFits_iff _ _ _ _).2 ⟨hr, h1, h2⟩)]

theorem exec_circle_center_rejected {s : State} (h : s.op = none)
    (hc : ¬ PointIn s.width s.height s.arg0.toInt s.arg1.toInt) :
    exec .circle s = .next (raiseError .illegalCircleCenter s) := by
  simp only [exec, execCircle, accept_idle _ h, s16_eq_toInt, if_neg (mt (inBounds_iff _ _ _).1 hc)]

theorem exec_circle_radius_rejected {s : State} (h : s.op = none)
    (hc : PointIn s.width s.height s.arg0.toInt s.arg1.toInt)
    (hr : ¬(0 ≤ s.arg2.toInt ∧
      PointIn s.width s.height (s.arg0.toInt - s.arg2.toInt) (s.arg1.toInt - s.arg2.toInt) ∧
      PointIn s.width s.height (s.arg0.toInt + s.arg2.toInt) (s.arg1.toInt + s.arg2.toInt))) :
    exec .circle s = .next (raiseError .illegalCircleRadius s) := by
  simp only [exec, execCircle, accept_idle _ h, s16_eq_toInt, if_pos ((inBounds_iff _ _ _).2 hc),
    if_neg (mt (circleFits_iff _ _ _ _).1 hr)]

/-- The commands that write cells (40_framebuffer_color.md R91). -/
def Writes (i : Instr) : Prop := i = .clear ∨ i = .pixel ∨ i = .line ∨ i = .rect ∨ i = .circle

/-- The commands that have a validator (41_validate_pixel.md R112). -/
def Validates (i : Instr) : Prop := i = .pixel ∨ i = .line ∨ i = .rect ∨ i = .circle

/-- Everything the acceptance step of a command can do: nothing (a busy block), a colour, an operand, an
operation latched (inside the framebuffer; `CLEAR` needs a cell to start at), or an error raised. -/
theorem exec_cases (i : Instr) (s : State) :
    exec i s = .next s ∨
    (i = .setcolor ∧ s.op = none ∧ exec i s = .next { s with color := s.arg0 }) ∨
    (i = .rstcolor ∧ s.op = none ∧ exec i s = .next { s with color := 0xFFFF }) ∨
    (i = .pack ∧ s.op = none ∧
      exec i s = .next { s with arg0 := packColor (u8 s.arg0) (u8 s.arg1) (u8 s.arg2) }) ∨
    (∃ o : Operation, s.op = none ∧ Writes i ∧ (0 < s.size → o.Inv s.width s.height) ∧
      exec i s = .next (beginOperation o s)) ∨
    (∃ e, s.op = none ∧ Validates i ∧ exec i s = .next (raiseError e s)) := by
  by_cases ho : s.op = none
  swap
  · obtain ⟨o, ho⟩ := Option.ne_none_iff_exists'.1 ho
    exact .inl (exec_busy i ho)
  · have latched : ∀ (j : Instr) (o : Operation), Writes j → (0 < s.size → o.Inv s.width s.height) →
        exec j s = .next (beginOperation o s) → ∃ o : Operation, s.op = none ∧ Writes j ∧
          (0 < s.size → o.Inv s.width s.height) ∧ exec j s = .next (beginOperation o s) :=
      fun _ o hw hi he => ⟨o, ho, hw, hi, he⟩
    cases i with
    | clear =>
      exact .inr (.inr (.inr (.inr (.inl (latched _ (.clear 0) (by simp [Writes]) id (exec_clear ho))))))
    | setcolor => exact .inr (.inl ⟨rfl, ho, exec_setcolor ho⟩)
    | rstcolor => exact .inr (.inr (.inl ⟨rfl, ho, exec_rstcolor ho⟩))
    | pack => exact .inr (.inr (.inr (.inl ⟨rfl, ho, exec_pack ho⟩)))
    | pixel =>
      by_cases hp : PointIn s.width s.height s.arg0.toInt s.arg1.toInt
      · exact .inr (.inr (.inr (.inr (.inl
          (latched _ (.pixel _ _) (by simp [Writes]) (fun _ => hp) (exec_pixel_drawn ho hp))))))
      · exact .inr (.inr (.inr (.inr (.inr
          ⟨_, ho, by simp [Validates], exec_pixel_rejected ho hp⟩))))
    | line =>
      by_cases hp : PointIn s.width s.height s.arg0.toInt s.arg1.toInt ∧
          PointIn s.width s.height s.arg2.toInt s.arg3.toInt
      · exact .inr (.inr (.inr (.inr (.inl (latched _ (.line _) (by simp [Writes])
          (fun _ => lineSetup_inv hp.1 hp.2) (exec_line_drawn ho hp.1 hp.2))))))
      · exact .inr (.inr (.inr (.inr (.inr
          ⟨_, ho, by simp [Validates], exec_line_rejected ho hp⟩))))
    | rect =>
      by_cases hp : s.arg0.toInt ≤ s.arg2.toInt ∧ s.arg1.toInt ≤ s.arg3.toInt ∧
          PointIn s.width s.height s.arg0.toInt s.arg1.toInt ∧
          PointIn s.width s.height s.arg2.toInt s.arg3.toInt
      · exact .inr (.inr (.inr (.inr (.inl (latched _ (.rect _) (by simp [Writes])
          (fun _ => rectSetup_inv hp.1 hp.2.1 hp.2.2.1 hp.2.2.2)
          (exec_rect_drawn ho hp.1 hp.2.1 hp.2.2.1 hp.2.2.2))))))
      · exact .inr (.inr (.inr (.inr (.inr
          ⟨_, ho, by simp [Validates], exec_rect_rejected ho hp⟩))))
    | circle =>
      by_cases hc : PointIn s.width s.height s.arg0.toInt s.arg1.toInt
      · by_cases hr : 0 ≤ s.arg2.toInt ∧
            PointIn s.width s.height (s.arg0.toInt - s.arg2.toInt) (s.arg1.toInt - s.arg2.toInt) ∧
            PointIn s.width s.height (s.arg0.toInt + s.arg2.toInt) (s.arg1.toInt + s.arg2.toInt)
        · exact .inr (.inr (.inr (.inr (.inl (latched _ (.circle _) (by simp [Writes])
            (fun _ => circleSetup_inv hr.1 hr.2.1 hr.2.2)
            (exec_circle_drawn ho hc hr.1 hr.2.1 hr.2.2))))))
        · exact .inr (.inr (.inr (.inr (.inr
            ⟨_, ho, by simp [Validates], exec_circle_radius_rejected ho hc hr⟩))))
      · exact .inr (.inr (.inr (.inr (.inr
          ⟨_, ho, by simp [Validates], exec_circle_center_rejected ho hc⟩))))

end Sys2Proof.Machine
end

