-- ==== Sys2Proof/Laws/Agents.lean ====
section
/-! SUPPORT. What each agent's step, and one step of the machine, can do. -/

namespace Sys2Proof.Machine

theorem step_alone {s : State} (h : s.inputs = []) : step s = deviceStep s := by
  simp [step, turn, h]

theorem step_input {s : State} {i : Input} {rest : List Input} (h : s.inputs = i :: rest) :
    step s = perform i { s with inputs := rest } := by
  simp [step, turn, h]

/-- A step either belongs to an agent named in the queue or, when none is named, to the device. -/
theorem step_cases (s : State) :
    (s.inputs = [] ∧ step s = deviceStep s) ∨
    ∃ i rest, s.inputs = i :: rest ∧ step s = perform i { s with inputs := rest } := by
  cases h : s.inputs with
  | nil => exact .inl ⟨rfl, step_alone h⟩
  | cons i rest => exact .inr ⟨i, rest, rfl, step_input h⟩

theorem hostWrite_busy (off : RegOffset) (v : Word) {s : State} {o : Operation} (h : s.op = some o) :
    hostWrite off v s = .next s := by
  rw [hostWrite, if_pos (busy_some h)]

theorem hostWrite_idle (off : RegOffset) (v : Word) {s : State} (h : s.op = none) :
    hostWrite off v s =
      match off.toNat with
      | 0x0 => issue v s
      | 0x1 => .next { s with arg0 := v }
      | 0x2 => .next { s with arg1 := v }
      | 0x3 => .next { s with arg2 := v }
      | 0x4 => .next { s with arg3 := v }
      | 0x6 => .next (if clearsErr v then acknowledgeError s else s)
      | _ => .next s :=
  if_neg (c := s.busy = true) (by simp [busy_none h])

/-- The issue of a word: a command's acceptance step, or `IllegalCommand`. -/
theorem issue_cases (w : Word) (s : State) :
    (∃ i, decode w = .ok i ∧ issue w s = exec i s) ∨
    (∃ e, decode w = .error e ∧ issue w s = .next (raiseError .illegalCommand s)) := by
  cases h : decode w with
  | ok i => exact .inl ⟨i, rfl, by simp [issue, h]⟩
  | error e => exact .inr ⟨e, rfl, by simp [issue, h]⟩

/-- Everything a host write can do. -/
theorem hostWrite_cases (off : RegOffset) (v : Word) (s : State) :
    hostWrite off v s = .next s ∨
    (s.op = none ∧
      ((off = 0 ∧ hostWrite off v s = issue v s) ∨
       (off = 1 ∧ hostWrite off v s = .next { s with arg0 := v }) ∨
       (off = 2 ∧ hostWrite off v s = .next { s with arg1 := v }) ∨
       (off = 3 ∧ hostWrite off v s = .next { s with arg2 := v }) ∨
       (off = 4 ∧ hostWrite off v s = .next { s with arg3 := v }) ∨
       (off = 6 ∧ v.getLsbD 1 = true ∧ hostWrite off v s = .next (acknowledgeError s)))) := by
  by_cases ho : s.op = none
  swap
  · obtain ⟨o, ho⟩ := Option.ne_none_iff_exists'.1 ho
    exact .inl (hostWrite_busy off v ho)
  have key := hostWrite_idle off v ho
  have off_eq : ∀ n : Nat, off.toNat = n → off = BitVec.ofNat 4 n := by
    rintro n rfl
    simp
  split at key
  · exact .inr ⟨ho, .inl ⟨off_eq _ ‹_›, key⟩⟩
  · exact .inr ⟨ho, .inr (.inl ⟨off_eq _ ‹_›, key⟩)⟩
  · exact .inr ⟨ho, .inr (.inr (.inl ⟨off_eq _ ‹_›, key⟩))⟩
  · exact .inr ⟨ho, .inr (.inr (.inr (.inl ⟨off_eq _ ‹_›, key⟩)))⟩
  · exact .inr ⟨ho, .inr (.inr (.inr (.inr (.inl ⟨off_eq _ ‹_›, key⟩))))⟩
  · by_cases hv : clearsErr v = true
    · rw [if_pos hv] at key
      exact .inr ⟨ho, .inr (.inr (.inr (.inr (.inr ⟨off_eq _ ‹_›, hv, key⟩))))⟩
    · rw [if_neg hv] at key
      exact .inl key
  · exact .inl key

/-- Everything a host write that answers a next state can have done. -/
theorem hostWrite_next {off : RegOffset} {v : Word} {s t : State} (h : hostWrite off v s = .next t) :
    t = s ∨
    (s.op = none ∧
      ((off = 0 ∧ ∃ i, decode v = .ok i ∧ exec i s = .next t) ∨
       (off = 0 ∧ (∃ e, decode v = .error e) ∧ t = raiseError .illegalCommand s) ∨
       (off = 1 ∧ t = { s with arg0 := v }) ∨ (off = 2 ∧ t = { s with arg1 := v }) ∨
       (off = 3 ∧ t = { s with arg2 := v }) ∨ (off = 4 ∧ t = { s with arg3 := v }) ∨
       (off = 6 ∧ v.getLsbD 1 = true ∧ t = acknowledgeError s))) := by
  rcases hostWrite_cases off v s with hw | ⟨ho, ⟨h0, hw⟩ | ⟨h0, hw⟩ | ⟨h0, hw⟩ | ⟨h0, hw⟩ | ⟨h0, hw⟩ | ⟨h0, hv, hw⟩⟩
  · rw [hw] at h; injection h with h; exact .inl h.symm
  · rcases issue_cases v s with ⟨i, hd, hi⟩ | ⟨e, hd, hi⟩
    · exact .inr ⟨ho, .inl ⟨h0, i, hd, by rw [← hi, ← hw]; exact h⟩⟩
    · rw [hw, hi] at h
      injection h with h
      exact .inr ⟨ho, .inr (.inl ⟨h0, ⟨e, hd⟩, h.symm⟩)⟩
  · rw [hw] at h; injection h with h; exact .inr ⟨ho, .inr (.inr (.inl ⟨h0, h.symm⟩))⟩
  · rw [hw] at h; injection h with h; exact .inr ⟨ho, .inr (.inr (.inr (.inl ⟨h0, h.symm⟩)))⟩
  · rw [hw] at h; injection h with h; exact .inr ⟨ho, .inr (.inr (.inr (.inr (.inl ⟨h0, h.symm⟩))))⟩
  · rw [hw] at h; injection h with h; exact .inr ⟨ho, .inr (.inr (.inr (.inr (.inr (.inl ⟨h0, h.symm⟩)))))⟩
  · rw [hw] at h; injection h with h; exact .inr ⟨ho, .inr (.inr (.inr (.inr (.inr (.inr ⟨h0, hv, h.symm⟩)))))⟩

/-- Everything a display read can do: its answer, and the count of free draws. -/
theorem fbRead_cases (a : Nat) (s : State) :
    (a < s.size ∧ fbRead a s = .next { s with displayData := s.fb.read a }) ∨
    (¬ a < s.size ∧
      fbRead a s = .next { s with displayData := Config.freeWord s.draws, draws := s.draws + 1 }) := by
  by_cases h : a < s.size
  · exact .inl ⟨h, by rw [fbRead, if_pos h]⟩
  · exact .inr ⟨h, by rw [fbRead, if_neg h]⟩

/-- The state with the first agent's step taken off the queue. -/
def dequeued (s : State) : State := { s with inputs := s.inputs.tail }

/-- Everything a step that answers a next state can have been, and what it did. -/
theorem step_next {s t : State} (h : step s = .next t) :
    ((s.inputs = [] ∨ ∃ rest, s.inputs = .device :: rest) ∧ deviceStep (dequeued s) = .next t) ∨
    (∃ off v rest, s.inputs = .hostWrite off v :: rest ∧ hostWrite off v (dequeued s) = .next t) ∨
    (∃ off rest, s.inputs = .hostRead off :: rest ∧
      t = { dequeued s with hostData := hostRegister off (dequeued s) }) ∨
    (∃ rest, s.inputs = .hostWait :: rest ∧
      t = { dequeued s with
        hostData := statusWord (dequeued s)
        inputs := if s.busy then .device :: .hostWait :: rest else rest }) ∨
    (∃ a rest, s.inputs = .fbRead a :: rest ∧ fbRead a (dequeued s) = .next t) ∨
    (∃ rest, s.inputs = .ackDirty :: rest ∧ t = { dequeued s with dirty := false }) ∨
    (∃ rest, s.inputs = .rst :: rest ∧ applyReset (dequeued s) = .next t) := by
  rcases step_cases s with ⟨hi, hs⟩ | ⟨i, rest, hi, hs⟩
  · have hd : dequeued s = s := by simp only [dequeued, hi, List.tail_nil]; rw [← hi]
    exact .inl ⟨.inl hi, by rw [hd, ← hs]; exact h⟩
  · have hd : dequeued s = { s with inputs := rest } := by simp only [dequeued, hi, List.tail_cons]
    rw [hs, ← hd] at h
    cases i with
    | device => exact .inl ⟨.inr ⟨rest, hi⟩, h⟩
    | hostWrite off v => exact .inr (.inl ⟨off, v, rest, hi, h⟩)
    | hostRead off => injection h with h; exact .inr (.inr (.inl ⟨off, rest, hi, h.symm⟩))
    | hostWait =>
      refine .inr (.inr (.inr (.inl ⟨rest, hi, ?_⟩)))
      simp only [perform, hostWait, statusWord_busyBit] at h
      injection h with h
      rw [← h, hd]
      rfl
    | fbRead a => exact .inr (.inr (.inr (.inr (.inl ⟨a, rest, hi, h⟩))))
    | ackDirty => injection h with h; exact .inr (.inr (.inr (.inr (.inr (.inl ⟨rest, hi, h.symm⟩)))))
    | rst => exact .inr (.inr (.inr (.inr (.inr (.inr ⟨rest, hi, h⟩)))))

/-! ### Runs -/

@[simp] theorem run_zero (s : State) : Host.Core.run Sys2Proof.core 0 s = .next s := rfl

/-- A run of one more step, when the first answers a next state. -/
theorem run_succ {s t : State} (k : Nat) (h : step s = .next t) :
    Host.Core.run Sys2Proof.core (k + 1) s = Host.Core.run Sys2Proof.core k t := by
  have : Sys2Proof.core.step s = .next t := h
  simp only [Host.Core.run, this]

end Sys2Proof.Machine
end

