-- ==== Sys2Proof/Laws/Decode.lean ====
section
/-! SUPPORT. The decoder and the encoder: the round trip, and the two ways a word can be no command. -/

namespace Sys2Proof

theorem decode_encode (i : Instr) : decode (encode i) = .ok i := by
  cases i <;> rfl

/-- A word is its reserved field and its opcode field (30_encoding.md R70). -/
theorem fields_append (w : Word) : (rsvField w ++ opField w : BitVec 16) = w := by
  unfold rsvField opField
  ext i hi
  simp only [BitVec.getElem_append, BitVec.getElem_extractLsb']
  split
  · simp [hi]
  · have : 4 + (i - 4) = i := by omega
    simp [this, hi]

/-- The opcode map has one opcode for each command (30_encoding.md R71). -/
theorem ofOpcode_opcode : ∀ (op : Opcode) (i : Instr), ofOpcode op = some i → op = i.opcode := by
  decide +revert

theorem encode_decode {w : Word} {i : Instr} (h : decode w = .ok i) : encode i = w := by
  unfold decode at h
  split at h
  · rename_i hr
    split at h
    · rename_i j hj
      injection h with h
      subst h
      have hf := fields_append w
      rw [hr, ofOpcode_opcode _ _ hj] at hf
      exact hf
    · cases h
  · cases h

end Sys2Proof
end

