-- ==== Sys2Proof/Laws/PerInstr.lean ====
section
/-! SUPPORT. Statements about every command as syntax, one lemma per constructor. -/

namespace Sys2Proof.Laws.Encoding

/-- A command is well formed, its word is a command word with the reserved field zero, and the decoder reads
the command back from it (30_encoding.md R70, R71). -/
def Statement (i : Instr) : Prop :=
  i.wf = true ∧ commandWordWf (encode i) = true ∧ rsvField (encode i) = 0 ∧ opField (encode i) = i.opcode ∧
    decode (encode i) = .ok i

theorem clear : Statement .clear := ⟨rfl, rfl, rfl, rfl, rfl⟩
theorem setcolor : Statement .setcolor := ⟨rfl, rfl, rfl, rfl, rfl⟩
theorem rstcolor : Statement .rstcolor := ⟨rfl, rfl, rfl, rfl, rfl⟩
theorem pack : Statement .pack := ⟨rfl, rfl, rfl, rfl, rfl⟩
theorem pixel : Statement .pixel := ⟨rfl, rfl, rfl, rfl, rfl⟩
theorem line : Statement .line := ⟨rfl, rfl, rfl, rfl, rfl⟩
theorem rect : Statement .rect := ⟨rfl, rfl, rfl, rfl, rfl⟩
theorem circle : Statement .circle := ⟨rfl, rfl, rfl, rfl, rfl⟩

end Sys2Proof.Laws.Encoding
end

