-- ==== Sys2Proof/Laws/Runs.lean ====
section
/-! SUPPORT. `Performs`, one write at a time: the induction every drawing command's write sequence rests on. -/

namespace Sys2Proof.Machine

/-- The state after a device step that wrote cell `a` with `v` and left the operation `next`. -/
def wrote (s : State) (a : Nat) (v : Word) (next : Option Operation) : State :=
  { s with op := next, fb := s.fb.write a v, dirty := true, events := .write a v :: s.events }

theorem traceWrites_cons (es : List Event) (a : Nat) (v : Word) (ws : List (Nat × Word)) :
    traceWrites es ((a, v) :: ws) = traceWrites (.write a v :: es) ws := by
  simp [traceWrites]

theorem applyWrites_cons (m : Memory) (a : Nat) (v : Word) (ws : List (Nat × Word)) :
    applyWrites m ((a, v) :: ws) = applyWrites (m.write a v) ws := rfl

/-- The step of a device that is alone with an operation inside the framebuffer. -/
theorem step_device {s : State} {o : Operation} (hi : s.inputs = []) (ho : s.op = some o)
    (hin : 0 ≤ o.index s.width ∧ o.index s.width < s.size) :
    step s = .next (wrote s (o.index s.width).toNat (o.value s.color) (o.advance s.size)) := by
  rw [step_alone hi, deviceStep_inside ho hin]
  rfl

theorem performs_zero (s : State) : Host.Core.run Sys2Proof.core 0 s = .next { s with
    op := s.op, fb := applyWrites s.fb [], dirty := s.dirty || decide (0 < 0),
    events := traceWrites s.events [] } := by
  simp [applyWrites, traceWrites]

/-- A run whose first step writes one cell goes on from the state after it. -/
theorem run_wrote {s : State} {o : Operation} (hi : s.inputs = []) (ho : s.op = some o)
    (hin : 0 ≤ o.index s.width ∧ o.index s.width < s.size) (k : Nat) :
    Host.Core.run Sys2Proof.core (k + 1) s =
      Host.Core.run Sys2Proof.core k
        (wrote s (o.index s.width).toNat (o.value s.color) (o.advance s.size)) :=
  run_succ k (step_device hi ho hin)

/-- The last write of an operation. -/
theorem performs_last {s : State} {o : Operation} (hi : s.inputs = []) (ho : s.op = some o)
    (hin : 0 ≤ o.index s.width ∧ o.index s.width < s.size) (hn : o.advance s.size = none) :
    Performs [((o.index s.width).toNat, o.value s.color)] s := by
  intro k hk
  match k with
  | 0 => exact ⟨s.op, performs_zero s, by simp [ho]⟩
  | 1 => exact ⟨none, by simp [run_wrote hi ho hin, hn, wrote, applyWrites, traceWrites], by simp⟩
  | _ + 2 => simp at hk

/-- A write followed by the rest of the operation. -/
theorem performs_cons {s : State} {o p : Operation} {ws : List (Nat × Word)} (hi : s.inputs = [])
    (ho : s.op = some o) (hin : 0 ≤ o.index s.width ∧ o.index s.width < s.size)
    (hn : o.advance s.size = some p)
    (hw : Performs ws (wrote s (o.index s.width).toNat (o.value s.color) (some p))) :
    Performs (((o.index s.width).toNat, o.value s.color) :: ws) s := by
  intro k hk
  match k with
  | 0 => exact ⟨s.op, performs_zero s, by simp [ho]⟩
  | k + 1 =>
    obtain ⟨q, hr, hq⟩ := hw k (by simpa using hk)
    refine ⟨q, ?_, by simpa using hq⟩
    rw [run_wrote hi ho hin, hn, hr, List.take_succ_cons, applyWrites_cons, traceWrites_cons]
    simp [wrote]

end Sys2Proof.Machine
end

