-- ==== Sys2Proof/Tests/Slice0.lean ====
section
/-! SUPPORT. The model's own tests: the refusals of each well-formedness check, decoding of words written out
from 30_encoding.md R70 and R71, single steps against the vectors of 95_test_vectors.md, and for every statement
with hypotheses a state and operands that meet them together. -/

namespace Sys2Proof.Tests

open Sys2Proof.Machine

/-! ## Well-formedness (30_encoding.md R72, 00_scope.md R7, 20_memory.md R58) -/

theorem test_wf_zero_word_refused : commandWordWf 0x0000 = false := by decide
theorem test_wf_opcode_nine_refused : commandWordWf 0x0009 = false := by decide
theorem test_wf_reserved_bit_refused : commandWordWf 0x0015 = false := by decide
theorem test_wf_circle_word_accepted : commandWordWf 0x0008 = true := by decide
theorem test_wf_no_columns_refused : geometryWf 0 4 = false := by decide
theorem test_wf_too_wide_refused : geometryWf 32768 4 = false := by decide
theorem test_wf_no_rows_refused : geometryWf 4 0 = false := by decide
theorem test_wf_too_high_refused : geometryWf 4 32768 = false := by decide
theorem test_wf_largest_accepted : geometryWf 32767 32767 = true := by decide
theorem test_wf_display_index_refused : displayIndexWf 4 4 16 = false := by decide
theorem test_wf_unsorted_cells_refused : Memory.wf [(3, 1), (2, 1)] = false := by decide
theorem test_wf_zero_cell_refused : Memory.wf [(3, 0)] = false := by decide

/-! ## Decoding: `rsv = 0x000`, then `op` (30_encoding.md R70, R71) -/

theorem test_decode_clear : decode 0b0000000000000001#16 = .ok .clear := rfl
theorem test_decode_setcolor : decode 0b0000000000000010#16 = .ok .setcolor := rfl
theorem test_decode_rstcolor : decode 0b0000000000000011#16 = .ok .rstcolor := rfl
theorem test_decode_pack : decode 0b0000000000000100#16 = .ok .pack := rfl
theorem test_decode_pixel : decode 0b0000000000000101#16 = .ok .pixel := rfl
theorem test_decode_line : decode 0b0000000000000110#16 = .ok .line := rfl
theorem test_decode_rect : decode 0b0000000000000111#16 = .ok .rect := rfl
theorem test_decode_circle : decode 0b0000000000001000#16 = .ok .circle := rfl
/-- Vector E23: the low nibble is `PIXEL`'s and bit 4 is set. -/
theorem test_decode_reserved_bit : decode 0b0000000000010101#16 = .error .reservedBits := rfl
/-- Vector E22. -/
theorem test_decode_opcode_nine : decode 0b0000000000001001#16 = .error .unknownOpcode := rfl
theorem test_table_word : decodeTableWord 16 0x0006 = some .line := by decide
theorem test_table_word_illegal : decodeTableWord 16 0x1006 = none := by decide

/-! ## Small states -/

/-- The next state of an outcome. -/
def after : Result → Option State
  | .next s => some s
  | .fault _ => none
  | .refused _ => none

/-- A `w` by `h` block with its operand registers set. -/
def withArgs (w h : Nat) (a b c d : Word) : State :=
  { State.resetOf w h with arg0 := a, arg1 := b, arg2 := c, arg3 := d }

/-- A `w` by `h` block with an operation in progress. -/
def busyWith (w h : Nat) (o : Operation) : State := { State.resetOf w h with op := some o }

/-- A `w` by `h` block with one agent's step waiting. -/
def waiting (w h : Nat) (i : Input) : State := { State.resetOf w h with inputs := [i] }

/-! ## Commands (95_test_vectors.md) -/

/-- Vector C4's sweep: the step at index 5 zeroes it and goes on at 6. -/
theorem test_clear_step :
    (after (step { busyWith 4 4 (.clear 5) with fb := [(5, 0xFFFF), (6, 0xFFFF)] })).map
      (fun t => (t.fb, t.op)) = some ([(6, 0xFFFF)], some (.clear 6)) := by decide

/-- Vector C1: the write at index `SIZE-1` is the last. -/
theorem test_clear_last :
    (after (step (busyWith 2 2 (.clear 3)))).map (fun t => (t.op, t.dirty, t.events)) =
      some (none, true, [.write 3 0]) := by decide

/-- Vector O1. -/
theorem test_setcolor :
    (after (exec .setcolor (withArgs 4 4 0x1234 0 0 0))).map (fun t => (t.color, statusWord t)) =
      some (0x1234, 0) := by decide

/-- Vector O2. -/
theorem test_rstcolor :
    (after (exec .rstcolor { State.resetOf 4 4 with color := 0x1234 })).map (·.color) =
      some 0xFFFF := by decide

/-- Vector K-P12: bits 15:8 of the operands are ignored. -/
theorem test_pack_upper_bits :
    (after (exec .pack (withArgs 4 4 0x01FF 0xABCD 0xFF00 0))).map (fun t => (t.arg0, t.arg1, t.color)) =
      some (0xFE60, 0xABCD, 0xFFFF) := by decide

/-- Vector K-P10. -/
theorem test_pack_mixed :
    (after (exec .pack (withArgs 4 4 0x00AB 0x00CD 0x00EF 0))).map (·.arg0) = some 0xAE7D := by decide

/-- Vector X4: the far corner of a 4 by 3 framebuffer is cell 11. -/
theorem test_pixel_far_corner :
    ((after (exec .pixel (withArgs 4 3 3 2 0 0))).bind fun t => after (step t)).map
      (fun t => (t.fb, t.op)) = some ([(11, 0xFFFF)], none) := by decide

/-- Vector X6: `x = W` fails and does not wrap to the next row. -/
theorem test_pixel_column_too_far :
    (after (exec .pixel (withArgs 4 3 4 0 0 0))).map (fun t => (t.op, t.errcode, t.events)) =
      some (none, 7, [.signalError 7]) := by decide

/-- Vector L7: the endpoints are exchanged and the secondary axis goes down. -/
theorem test_line_setup_exchanged :
    (after (exec .line (withArgs 8 8 5 0 0 2))).map (·.op) =
      some (some (.line { maj := 0, min := 2, last := 5, step := .minus, overY := false,
                          var := -1, incf := 4, incd := -6 })) := by decide

/-- Vector L19: Y drives, `VAR` is 0 and the secondary coordinate advances. -/
theorem test_line_tie_advances :
    lineAdvance (lineSetup 0 0 1 2) =
      some { maj := 1, min := 1, last := 2, step := .plus, overY := true,
             var := -2, incf := 2, incd := -2 } := by decide

/-- Vector T6: after the last column of row 2 comes the first column of row 3, cell 13. -/
theorem test_rect_next_row :
    (after (step (busyWith 4 4 (.rect { rx := 3, ry := 2, rx1 := 1, rx2 := 3, ry2 := 3 })))).map
      (fun t => (t.fb, t.op.map (·.index 4))) = some ([(11, 0xFFFF)], some 13) := by decide

/-- Vector T9: corners are not exchanged. -/
theorem test_rect_unordered :
    (after (exec .rect (withArgs 4 4 2 2 0 0))).map (fun t => (t.op, t.err, t.errcode)) =
      some (none, true, 9) := by decide

/-- The generator for radius 4 at its second test: `VAR` is 0 and `D2` shrinks (44_circle.md R167 (d)). -/
theorem test_circle_generator_tie :
    (circleGenStep { cx := 4, cy := 4, d1 := 1, d2 := 4, var := 0, span := .lowerSecond, sx := 8 }) =
      { cx := 4, cy := 4, d1 := 2, d2 := 3, var := -1, span := .lowerSecond, sx := 8 } := by decide

/-- Vector E13: the centre is tested first, even with a negative radius. -/
theorem test_circle_center_first :
    (after (exec .circle (withArgs 8 8 9 9 0xFFFF 0))).map (·.errcode) = some 12 := by decide

/-! ## Host, display and reset -/

/-- Vector E21: the zero word is illegal. -/
theorem test_zero_word :
    (after (step (waiting 8 8 (.hostWrite 0 0)))).map (fun t => (t.errcode, t.events)) =
      some (0x0100, [.signalError 0x0100]) := by decide

/-- Vector H9: only `ERR` and `ERRCODE` clear, `DIRTY` stays. -/
theorem test_status_clears_err :
    (after (step { waiting 8 8 (.hostWrite 6 2) with err := true, errcode := 8, dirty := true })).map
      (fun t => (statusWord t, t.errcode)) = some (4, 0) := by decide

/-- Vector H12: a write while `BUSY = 1` is discarded. -/
theorem test_busy_write_discarded :
    (after (step { busyWith 4 4 (.clear 0) with inputs := [.hostWrite 1 0x55] })).map
      (fun t => (t.arg0, t.op)) = some (0, some (.clear 0)) := by decide

/-- Vector H3. -/
theorem test_read_width :
    (after (step (waiting 8 4 (.hostRead 8)))).map (·.hostData) = some 8 := by decide

theorem test_reset_while_busy :
    (after (step { busyWith 4 4 (.clear 0) with inputs := [.rst], fb := [(1, 5)], color := 3 })).map
      (fun t => (t.op, t.fb, t.color)) = some (none, [], 0xFFFF) := by decide

/-- `setColorRGB`'s encoding in program P1: `W 1 00FF  W 2 0000  W 3 0000  W 0 0004  W 0 0002`. -/
theorem test_script_setColorRGB :
    (Pseudo.setColorRGB 0xFF 0 0).expand =
      [.hostWrite 1 0x00FF, .hostWrite 2 0, .hostWrite 3 0, .hostWrite 0 4, .hostWrite 0 2] := by decide

/-- A negative number of the notation: `-1` is `ARG0 = FFFF` (vector X8). -/
theorem test_script_negative :
    scriptNumber (-1) = some 0xFFFF ∧ scriptNumber (-32768) = some 0x8000 := by decide

/-- A number that does not fit 16 bits is refused at the boundary, not wrapped (U19). -/
theorem test_script_unfit :
    scriptNumber 0xFFFF = some 0xFFFF ∧ scriptNumber 0x10000 = none ∧ scriptNumber 70000 = none ∧
    scriptNumber (-0x10000) = some 0 ∧ scriptNumber (-0x10001) = none := by decide

/-- The largest framebuffer's index is 30 bits, 4 by 4's is 4, one cell's is 1 (00_scope.md R8). -/
theorem test_addressWidth :
    addressWidth (State.resetOf 32767 32767) = 30 ∧ addressWidth (State.resetOf 4 4) = 4 ∧
    addressWidth (State.resetOf 1 1) = 1 := by decide

/-- From reset every command word placed by `withFetchWord` runs in the very next step. -/
theorem test_withFetchWord_line :
    (after (step (State.reset.withFetchWord 16 0x0006))).map (fun t => (t.op.map (·.opcode), t.inputs)) =
      some (some 6, []) := by decide

/-! ## Witnesses: every statement's hypotheses can be met together -/

/-- `StepRunsDecodedCommand`: a `LINE` waiting at an idle block, and its word. -/
theorem witness_stepRunsDecodedCommand :
    (waiting 4 4 (.hostWrite 0 6)).inputs = .hostWrite 0x0 6 :: [] ∧
    (waiting 4 4 (.hostWrite 0 6)).op = none ∧ decode 6 = .ok .line ∧
    decode (BitVec.ofNat 16 (6 % 2 ^ 16)) = .ok .line := ⟨rfl, rfl, rfl, rfl⟩

/-- `IllegalWordRaisesIllegalCommand`, at both ends of the illegal words. -/
theorem witness_illegalWord :
    (∀ w : Word, (waiting 4 4 (.hostWrite 0 w)).inputs = .hostWrite 0x0 w :: [] ∧
      (waiting 4 4 (.hostWrite 0 w)).op = none) ∧
    ¬(1 ≤ (0x0000 : Word).toNat ∧ (0x0000 : Word).toNat ≤ 8) ∧
    ¬(1 ≤ (0x0009 : Word).toNat ∧ (0x0009 : Word).toNat ≤ 8) ∧
    ¬(1 ≤ (0xFFFF : Word).toNat ∧ (0xFFFF : Word).toNat ≤ 8) :=
  ⟨fun _ => ⟨rfl, rfl⟩, by decide, by decide, by decide⟩

/-- `HostWriteWhileBusyIsDiscarded`. -/
theorem witness_hostWriteBusy :
    { busyWith 4 4 (.clear 0) with inputs := [.hostWrite 1 0x55] }.inputs = .hostWrite 1 0x55 :: [] ∧
    { busyWith 4 4 (.clear 0) with inputs := [.hostWrite 1 0x55] }.busy = true := ⟨rfl, rfl⟩

/-- `HostWriteByOffset`, every clause: every offset and both values of bit 1 at offset 6. -/
theorem witness_hostWriteByOffset :
    (∀ (off : RegOffset) (v : Word), (waiting 4 4 (.hostWrite off v)).inputs = .hostWrite off v :: [] ∧
      (waiting 4 4 (.hostWrite off v)).busy = false) ∧
    (0x0002 : Word).getLsbD 1 = true ∧ (0xFFFD : Word).getLsbD 1 = false ∧
    (0x7 : RegOffset).toNat = 7 ∧ 7 ≤ (0xF : RegOffset).toNat := ⟨fun _ _ => ⟨rfl, rfl⟩, by decide⟩

/-- `HostReadReturnsRegister`, every clause: every offset, at the largest geometry. -/
theorem witness_hostRead :
    (∀ off : RegOffset, (waiting 32767 32767 (.hostRead off)).inputs = .hostRead off :: []) ∧
    geometryWf (waiting 32767 32767 (.hostRead 0)).width (waiting 32767 32767 (.hostRead 0)).height = true ∧
    0xA ≤ (0xA : RegOffset).toNat ∧ 0xA ≤ (0xF : RegOffset).toNat := ⟨fun _ => rfl, by decide⟩

/-- `DisplayReadReturnsLatestWrite`, at the last cell. -/
theorem witness_displayRead :
    (waiting 4 4 (.fbRead 15)).inputs = .fbRead 15 :: [] ∧ 15 < (waiting 4 4 (.fbRead 15)).size ∧
    (waiting 4 4 (.fbRead 15)).CellsAgree := ⟨rfl, by decide, fun _ => rfl⟩

/-- `DisplayReadOutOfRangeChangesNothing`, at the first index outside. -/
theorem witness_displayReadOutside :
    (waiting 4 4 (.fbRead 16)).inputs = .fbRead 16 :: [] ∧ (waiting 4 4 (.fbRead 16)).size ≤ 16 :=
  ⟨rfl, by decide⟩

/-- `AckDirtyClearsOnlyDirty` and `ResetInputAbandonsEverything`. -/
theorem witness_ackDirty_rst :
    (waiting 4 4 .ackDirty).inputs = .ackDirty :: [] ∧ (waiting 4 4 .rst).inputs = .rst :: [] := ⟨rfl, rfl⟩

/-- `OperationKeepsItsOpcode`: a command that latches an operation and an operation that goes on. -/
theorem witness_opcode :
    (∃ t, (State.resetOf 4 4).busy = false ∧ exec .clear (State.resetOf 4 4) = .next t ∧
      t.op = some (.clear 0)) ∧ (Operation.clear 0).advance 16 = some (.clear 1) := ⟨⟨_, rfl, rfl, rfl⟩, by decide⟩

/-- `WriteSequenceReadsBackLatest`: a canonical framebuffer, a cell written twice. -/
theorem witness_writes : Memory.wf [(2, 7)] = true ∧ (applyWrites [(2, 7)] [(1, 3), (1, 0)]) = [(2, 7)] := by
  decide

/-- `ResetStateValues`, `AddressWidthIsCeilLog` and `WholeRectSweepsEveryCell`, at both ends of the geometries. -/
theorem witness_geometry : geometryWf 1 1 = true ∧ geometryWf 32767 32767 = true := by decide

/-- `SetcolorLoadsColor`, `RstcolorRestoresWhite`, `PackWritesPackedColor`. -/
theorem witness_idle : (State.resetOf 4 4).busy = false := rfl

/-- The invariant has members: a block after reset and one with an operation in progress. -/
theorem witness_inv : (State.resetOf 4 4).Inv ∧ (busyWith 4 4 (.clear 15)).Inv := by
  refine ⟨⟨by decide, rfl, by simp, by simp⟩, ⟨by decide, rfl, by simp [busyWith], ?_⟩⟩
  rintro o ⟨⟩
  show 15 < 4 * 4
  decide

/-- `ClearZeroesEveryCellInOrder`, `EveryOperationTerminates` on an idle block. -/
theorem witness_clear :
    (State.resetOf 4 4).Inv ∧ (State.resetOf 4 4).busy = false ∧ (State.resetOf 4 4).inputs = [] :=
  ⟨witness_inv.1, rfl, rfl⟩

/-- `PixelWritesOneCellOrRaises`: the far corner is drawn, one column beyond is not. -/
theorem witness_pixel :
    ((withArgs 4 3 3 2 0 0).busy = false ∧ (withArgs 4 3 3 2 0 0).inputs = [] ∧
      PointIn 4 3 (withArgs 4 3 3 2 0 0).arg0.toInt (withArgs 4 3 3 2 0 0).arg1.toInt) ∧
    ¬ PointIn 4 3 (withArgs 4 3 4 0 0 0).arg0.toInt (withArgs 4 3 4 0 0 0).arg1.toInt := by
  unfold PointIn
  decide

/-- `LineWritesClosedFormOrRaises`: corner to corner is drawn, one row beyond is not. -/
theorem witness_line :
    ((withArgs 8 8 7 7 0 0).busy = false ∧ (withArgs 8 8 7 7 0 0).inputs = [] ∧
      PointIn 8 8 (withArgs 8 8 7 7 0 0).arg0.toInt (withArgs 8 8 7 7 0 0).arg1.toInt ∧
      PointIn 8 8 (withArgs 8 8 7 7 0 0).arg2.toInt (withArgs 8 8 7 7 0 0).arg3.toInt) ∧
    ¬(PointIn 8 8 (withArgs 8 8 0 0 7 8).arg0.toInt (withArgs 8 8 0 0 7 8).arg1.toInt ∧
      PointIn 8 8 (withArgs 8 8 0 0 7 8).arg2.toInt (withArgs 8 8 0 0 7 8).arg3.toInt) := by
  unfold PointIn
  decide

/-- `RectWritesRowMajorOrRaises`: the whole framebuffer is drawn, an empty rectangle is not. -/
theorem witness_rect :
    ((withArgs 4 4 0 0 3 3).arg0.toInt ≤ (withArgs 4 4 0 0 3 3).arg2.toInt ∧
      (withArgs 4 4 0 0 3 3).arg1.toInt ≤ (withArgs 4 4 0 0 3 3).arg3.toInt ∧
      PointIn 4 4 (withArgs 4 4 0 0 3 3).arg0.toInt (withArgs 4 4 0 0 3 3).arg1.toInt ∧
      PointIn 4 4 (withArgs 4 4 0 0 3 3).arg2.toInt (withArgs 4 4 0 0 3 3).arg3.toInt ∧
      (withArgs 4 4 0 0 3 3).busy = false ∧ (withArgs 4 4 0 0 3 3).inputs = []) ∧
    ¬((withArgs 4 4 2 2 1 2).arg0.toInt ≤ (withArgs 4 4 2 2 1 2).arg2.toInt) := by
  unfold PointIn
  decide

/-- `CircleWritesOctantSpans` and `CircleTouchesSymmetricRuns`: a circle that touches all four edges. -/
theorem witness_circle :
    (withArgs 9 9 4 4 4 0).busy = false ∧ (withArgs 9 9 4 4 4 0).inputs = [] ∧
    0 ≤ (withArgs 9 9 4 4 4 0).arg2.toInt ∧ PointIn 9 9 (4 - 4) (4 - 4) ∧ PointIn 9 9 (4 + 4) (4 + 4) ∧
    (withArgs 9 9 4 4 4 0).arg0.toInt = 4 ∧ (withArgs 9 9 4 4 4 0).arg1.toInt = 4 ∧
    (withArgs 9 9 4 4 4 0).arg2.toInt = 4 := by
  unfold PointIn
  decide

/-- `CircleRaisesCenterThenRadius`: vectors E8, E12 and E2. -/
theorem witness_circleRaises :
    ¬ PointIn 8 8 (withArgs 8 8 8 4 0 0).arg0.toInt (withArgs 8 8 8 4 0 0).arg1.toInt ∧
    (PointIn 8 8 (withArgs 8 8 4 4 0xFFFF 0).arg0.toInt (withArgs 8 8 4 4 0xFFFF 0).arg1.toInt ∧
      (withArgs 8 8 4 4 0xFFFF 0).arg2.toInt < 0) ∧
    (PointIn 8 8 (withArgs 8 8 4 4 4 0).arg0.toInt (withArgs 8 8 4 4 4 0).arg1.toInt ∧
      8 ≤ (withArgs 8 8 4 4 4 0).arg0.toInt + (withArgs 8 8 4 4 4 0).arg2.toInt) ∧
    (withArgs 8 8 4 4 4 0).busy = false := by
  unfold PointIn
  decide

/-- `LineErrorTermIsBounded`: vector L18, whose error term is -2 after its first step. -/
theorem witness_lineBound :
    1 ≤ max ((2 : Int) - 0).natAbs ((1 : Int) - 0).natAbs ∧
    max ((2 : Int) - 0).natAbs ((1 : Int) - 0).natAbs ≤ 32766 ∧ (lineStep (lineSetup 0 0 2 1)).var = -2 := by
  decide

/-- `StraightLinesAreRuns`: vectors L11 and L13, given from their far ends, on an 8-column framebuffer. -/
theorem witness_straight :
    (lineWrites 8 1 6 4 1 4).map (·.1) = [33, 34, 35, 36, 37, 38] ∧
    (lineWrites 8 1 4 6 4 1).map (·.1) = [12, 20, 28, 36, 44, 52] := by decide

/-- `OctantGeneratorIsBounded` and `CircleWriteCount`: the last state for radius 4, vector table 2.8. -/
theorem witness_octants : (0 : Int) ≤ 4 ∧ (octants 4)[3]? = some (3, 3, 6) ∧ (octants 4).length = 3 + 1 ∧
    (octants 4)[0]? = some (0, 4, 1 - 4) := by
  decide

/-- `CellIndexIsBijection`: the far corner is the last cell. -/
theorem witness_cellIndex : PointIn 4 3 3 2 ∧ cellIndex 4 3 2 = 11 ∧ 11 < 4 * 3 := by
  unfold PointIn
  decide

/-- `DrawingIsWholeOrNothing`. -/
theorem witness_drawing : (withArgs 4 4 0 0 0 0).busy = false ∧
    (Instr.line = .pixel ∨ Instr.line = .line ∨ Instr.line = .rect ∨ Instr.line = .circle) := by decide

/-- `CommandFrame`: an acceptance step and a device step that answer a next state. -/
theorem witness_frame :
    (∃ t, exec .pack (withArgs 4 4 1 2 3 4) = .next t) ∧
    ∃ t, deviceStep (busyWith 4 4 (.clear 0)) = .next t := ⟨⟨_, rfl⟩, ⟨_, rfl⟩⟩

/-- `DeviceStepWritesOneCell` and the progress statements: an invariant state with an operation. -/
theorem witness_deviceStep : (busyWith 4 4 (.clear 15)).Inv ∧ (busyWith 4 4 (.clear 15)).inputs = [] ∧
    (busyWith 4 4 (.clear 15)).op = some (.clear 15) := ⟨witness_inv.2, rfl, rfl⟩

/-- `CellsChangeOnlyByDeviceOrReset`: a step that changes cell 0. -/
theorem witness_cellChanges :
    ∃ t, step { busyWith 4 4 (.clear 0) with fb := [(0, 5)] } = .next t ∧
      t.fb.read 0 ≠ (Memory.read [(0, 5)] 0) := ⟨_, rfl, by decide⟩

/-- `HostAndDisplayCannotDisturb`: a host read beside an operation in progress. -/
theorem witness_disturb :
    ∃ t, step { busyWith 4 4 (.clear 0) with inputs := [.hostRead 6] } = .next t ∧
      (busyWith 4 4 (.clear 0)).busy = true ∧ Input.hostRead 6 ≠ .device ∧ Input.hostRead 6 ≠ .rst :=
  ⟨_, rfl, rfl, by decide⟩

/-- `ColorChangesOnlyByColorCommands`: a `SETCOLOR` that changes `COLOR`. -/
theorem witness_colorChanges :
    ∃ t, step (waiting 4 4 (.hostWrite 0 2)) = .next t ∧ t.color ≠ (waiting 4 4 (.hostWrite 0 2)).color :=
  ⟨_, rfl, by decide⟩

/-- `ErrIsStickyUntilAcknowledged`: a step that clears `ERR` and one that sets it. -/
theorem witness_err :
    (∃ t, step { waiting 4 4 (.hostWrite 6 2) with err := true, errcode := 7 } = .next t ∧ t.err = false) ∧
    ∃ t, step (waiting 4 4 (.hostWrite 0 9)) = .next t ∧ t.err = true := ⟨⟨_, rfl, rfl⟩, ⟨_, rfl, rfl⟩⟩

/-- `DirtyTracksWrites`: a step that clears `DIRTY` and one that sets it. -/
theorem witness_dirty :
    (∃ t, step { waiting 4 4 .ackDirty with dirty := true } = .next t ∧ t.dirty = false) ∧
    ∃ t, step (busyWith 4 4 (.clear 0)) = .next t ∧ t.dirty = true ∧ t.events = [.write 0 0] :=
  ⟨⟨_, rfl, rfl⟩, ⟨_, rfl, rfl, rfl⟩⟩

/-- `BusyMarksTheOperation`: a step that raises `BUSY` and one that clears it. -/
theorem witness_busy :
    (∃ t, step (waiting 4 4 (.hostWrite 0 1)) = .next t ∧ t.busy = true) ∧
    ∃ t, step (busyWith 4 4 (.clear 15)) = .next t ∧ t.busy = false := ⟨⟨_, rfl, rfl⟩, ⟨_, rfl, rfl⟩⟩

/-- `StepKeepsInvariant`, `StepKeepsCellsEqualToTrace`, `StepKeepsErrorCodeConsistent`, `GeometryNeverChanges`,
`StepEmitsAtMostOneEvent`, `SafeStateAlwaysSteps`: a safe state that steps. -/
theorem witness_step :
    (busyWith 4 4 (.clear 15)).Inv ∧ (busyWith 4 4 (.clear 15)).CellsAgree ∧
    (busyWith 4 4 (.clear 15)).ErrorAgrees ∧ ∃ t, step (busyWith 4 4 (.clear 15)) = .next t :=
  ⟨witness_inv.2, fun _ => rfl, ⟨.inl rfl, by decide⟩, ⟨_, rfl⟩⟩

/-- `IdleMachineKeepsItsState`. -/
theorem witness_idleMachine : (State.resetOf 4 4).inputs = [] ∧ (State.resetOf 4 4).busy = false := ⟨rfl, rfl⟩

/-- `WaitEndsWithIdleBlock`: a `WAIT` beside an operation in progress. -/
theorem witness_wait : { busyWith 4 4 (.clear 15) with inputs := [.hostWait] }.Inv ∧
    { busyWith 4 4 (.clear 15) with inputs := [.hostWait] }.inputs = .hostWait :: [] :=
  ⟨witness_inv.2, rfl⟩

/-- `ScriptStatementsAreTransactions`. -/
theorem witness_script :
    (waiting 4 4 (command .rect)).inputs = command .rect :: [] ∧ (waiting 4 4 (command .rect)).busy = false ∧
    (waiting 4 4 (wr .status 2)).inputs = wr .status 2 :: [] ∧
    (waiting 4 4 (rd .fbh)).inputs = rd .fbh :: [] := ⟨rfl, rfl, rfl, rfl⟩

end Sys2Proof.Tests
end

section
/-! PROOFS. The scope's numbers (00_scope.md R8): the number of cells and the width of a cell index.
`addressWidth` is tied to Mathlib's `Nat.clog` once; its bounds are then those of `Nat.clog`. -/

namespace Sys2Proof.Machine

theorem addressWidth_of_size_le_one {s : State} (h : s.size ≤ 1) : addressWidth s = 1 := if_pos h

/-- With at least two cells `AW` is the ceiling of the binary logarithm: a width `k` is at least `AW` exactly when
its `2 ^ k` words count the cells. -/
theorem addressWidth_eq_clog {s : State} (h : 2 ≤ s.size) : addressWidth s = Nat.clog 2 s.size := by
  have hlog : addressWidth s = Nat.log2 (s.size - 1) + 1 := if_neg (by omega)
  refine eq_of_forall_ge_iff fun k => ?_
  calc addressWidth s ≤ k
      ↔ Nat.log2 (s.size - 1) < k := by rw [hlog, Nat.succ_le_iff]
    _ ↔ s.size - 1 < 2 ^ k := Nat.log2_lt (by omega)
    _ ↔ s.size ≤ 2 ^ k := by omega
    _ ↔ Nat.clog 2 s.size ≤ k := (Nat.clog_le_iff_le_pow (by decide)).symm

/-- The largest geometry has fewer than `2 ^ 30` cells (00_scope.md R7, R8). -/
theorem size_le_two_pow_thirty {s : State} (h : geometryWf s.width s.height = true) : s.size ≤ 2 ^ 30 := by
  obtain ⟨-, hw, -, hh⟩ := (geometryWf_iff _ _).mp h
  calc s.size ≤ 32767 * 32767 := Nat.mul_le_mul hw hh
    _ ≤ 2 ^ 30 := by decide

/-- Settles O32: a single cell has width 1 by the definition's own case, and from two cells on the bounds are
those of `Nat.clog`. -/
theorem addressWidthIsCeilLog : Obligations.AddressWidthIsCeilLog := by
  intro s hgeom
  refine ⟨rfl, ?_⟩
  obtain hone | htwo : s.size ≤ 1 ∨ 2 ≤ s.size := by omega
  · rw [addressWidth_of_size_le_one hone]
    exact ⟨by omega, fun _ => rfl, fun _ => by omega, by decide⟩
  · rw [addressWidth_eq_clog htwo]
    exact ⟨Nat.le_pow_clog (by decide) _, fun _ => by omega,
      fun _ => Nat.pow_pred_clog_lt_self (by decide) htwo,
      Nat.clog_le_of_le_pow (size_le_two_pow_thirty hgeom)⟩

end Sys2Proof.Machine
end

section
/-! PROOFS. The host port, the reset state and `DIRTY` (10_state.md R28, R31 to R33, R45). -/

namespace Sys2Proof.Machine

/-! ### What a host read answers (10_state.md R31) -/

/-- `STATUS` as a number: bits 2, 1, 0 are `DIRTY`, `ERR`, `BUSY` (10_state.md R25). -/
theorem statusWord_toNat (s : State) :
    (statusWord s).toNat = 4 * s.dirty.toNat + 2 * s.err.toNat + s.busy.toNat := by
  unfold statusWord
  cases s.dirty <;> cases s.err <;> cases s.busy <;> rfl

/-- A legal width fits the 16 bits of `FBW`. -/
theorem hostRegister_fbw {s : State} (h : geometryWf s.width s.height = true) :
    (hostRegister 0x8 s).toNat = s.width := by
  obtain ⟨-, hw, -, -⟩ := (geometryWf_iff _ _).mp h
  exact Nat.mod_eq_of_lt (by omega)

/-- A legal height fits the 16 bits of `FBH`. -/
theorem hostRegister_fbh {s : State} (h : geometryWf s.width s.height = true) :
    (hostRegister 0x9 s).toNat = s.height := by
  obtain ⟨-, -, -, hh⟩ := (geometryWf_iff _ _).mp h
  exact Nat.mod_eq_of_lt (by omega)

theorem hostRegister_reserved {off : RegOffset} (s : State) (h : 0xA ≤ off.toNat) : hostRegister off s = 0 := by
  unfold hostRegister
  split
  any_goals omega
  rfl

theorem step_hostRead {s : State} {off : RegOffset} {rest : List Input} (h : s.inputs = .hostRead off :: rest) :
    step s = .next { s with inputs := rest, hostData := hostRegister off s } :=
  step_input h

/-- Settles O7: the answer is `hostRegister`, of which each offset asks for one case. -/
theorem hostReadReturnsRegister : Obligations.HostReadReturnsRegister := by
  intro s off rest hin hgeom
  refine ⟨hostRegister off s, step_hostRead hin, ?_, ?_, ?_, ?_, ?_, ?_, ?_, ?_, ?_, ?_,
    hostRegister_reserved s⟩ <;> rintro rfl
  case refine_7 => exact statusWord_toNat s
  case refine_9 => exact hostRegister_fbw hgeom
  case refine_10 => exact hostRegister_fbh hgeom
  all_goals rfl

/-! ### What a host write does (10_state.md R32, R33) -/

/-- The offsets at which a host write does nothing even to an idle block (10_state.md R32). -/
theorem hostWrite_ignored {off : RegOffset} (v : Word) {s : State} (ho : s.op = none)
    (h : off.toNat = 0x5 ∨ 0x7 ≤ off.toNat) : hostWrite off v s = .next s := by
  rw [hostWrite_idle off v ho]
  split
  any_goals omega
  rfl

/-- A host write to `STATUS` acknowledges the error when bit 1 is set, and does nothing else (10_state.md R32). -/
theorem hostWrite_status {v : Word} {s : State} (ho : s.op = none) :
    hostWrite 0x6 v s = .next (if v.getLsbD 1 then acknowledgeError s else s) :=
  hostWrite_idle 0x6 v ho

/-- Settles O5: the branch of `hostWrite` that `BUSY` selects. -/
theorem hostWriteWhileBusyIsDiscarded : Obligations.HostWriteWhileBusyIsDiscarded := by
  intro s off v rest hin hbusy
  calc step s = hostWrite off v { s with inputs := rest } := step_input hin
    _ = .next { s with inputs := rest } := if_pos hbusy

/-- Settles O6: the arms of `hostWrite_idle`, one offset at a time. -/
theorem hostWriteByOffset : Obligations.HostWriteByOffset := by
  intro s off v rest hin hbusy
  have hidle : ({ s with inputs := rest } : State).op = none := busy_eq_false.mp hbusy
  rw [step_input hin, perform]
  refine ⟨?_, ?_, ?_, ?_, ?_, ?_, ?_, ?_⟩
  case refine_6 =>
    rintro rfl hv
    rw [hostWrite_status hidle, if_pos hv]
    rfl
  case refine_7 =>
    rintro rfl hv
    rw [hostWrite_status hidle, hv]
    rfl
  case refine_8 =>
    exact fun hoff => hostWrite_ignored v hidle (hoff.imp_left fun h => congrArg BitVec.toNat h)
  all_goals
    rintro rfl
    exact hostWrite_idle _ v hidle

/-! ### Reset (10_state.md R45) -/

/-- Settles O11: the fields of `State.resetOf`; the two geometry registers hold a legal size. -/
theorem resetStateValues : Obligations.ResetStateValues := by
  intro w h hgeom
  exact ⟨fun _ => rfl, resetOf_color w h, resetOf_arg0 w h, resetOf_arg1 w h, resetOf_arg2 w h,
    resetOf_arg3 w h, busy_none (resetOf_op w h), resetOf_err w h, resetOf_dirty w h, resetOf_errcode w h,
    resetOf_width w h, resetOf_height w h, hostRegister_fbw hgeom, hostRegister_fbh hgeom⟩

/-! ### `DIRTY` and the `Write` events (10_state.md R28) -/

/-- From `s` to `t` no cell is written: `DIRTY` stays, and the trace gains at most a `SignalError`. -/
def WritesNoCell (s t : State) : Prop :=
  t.dirty = s.dirty ∧ (t.events = s.events ∨ ∃ c, t.events = .signalError c :: s.events)

theorem WritesNoCell.events_ne {s t : State} (h : WritesNoCell s t) (a : Nat) (v : Word) :
    t.events ≠ .write a v :: s.events := by
  obtain ⟨-, he | ⟨c, he⟩⟩ := h
  · rw [he]
    exact (List.cons_ne_self _ _).symm
  · simp [he]

theorem raiseError_writesNoCell (e : ErrorKind) (s : State) : WritesNoCell s (raiseError e s) :=
  ⟨rfl, .inr ⟨e.code, rfl⟩⟩

/-- Accepting a command writes no cell (40_framebuffer_color.md R91). -/
theorem exec_writesNoCell {i : Instr} {s t : State} (h : exec i s = .next t) : WritesNoCell s t := by
  rcases exec_cases i s with he | ⟨-, -, he⟩ | ⟨-, -, he⟩ | ⟨-, -, he⟩ | ⟨o, -, -, -, he⟩ | ⟨e, -, -, he⟩ <;>
    obtain rfl := Host.Outcome.next.inj (he.symm.trans h)
  case inr.inr.inr.inr.inr => exact raiseError_writesNoCell e s
  all_goals exact ⟨rfl, .inl rfl⟩

theorem hostWrite_writesNoCell {off : RegOffset} {v : Word} {s t : State} (h : hostWrite off v s = .next t) :
    WritesNoCell s t := by
  rcases hostWrite_next h with rfl | ⟨-, ⟨-, i, -, he⟩ | ⟨-, -, rfl⟩ | ⟨-, rfl⟩ | ⟨-, rfl⟩ | ⟨-, rfl⟩ |
    ⟨-, rfl⟩ | ⟨-, -, rfl⟩⟩
  case inr.inl => exact exec_writesNoCell he
  case inr.inr.inl => exact raiseError_writesNoCell _ s
  all_goals exact ⟨rfl, .inl rfl⟩

theorem fbRead_writesNoCell {a : Nat} {s t : State} (h : fbRead a s = .next t) : WritesNoCell s t := by
  rcases fbRead_cases a s with ⟨-, he⟩ | ⟨-, he⟩ <;> obtain rfl := Host.Outcome.next.inj (he.symm.trans h) <;>
    exact ⟨rfl, .inl rfl⟩

/-- A device step writes one cell, or the device is idle. -/
theorem deviceStep_dirty {s t : State} (h : deviceStep s = .next t) :
    WritesNoCell s t ∨ (t.dirty = true ∧ ∃ a v, t.events = .write a v :: s.events) := by
  rcases deviceStep_cases h with ⟨-, rfl⟩ | ⟨o, -, -, rfl⟩
  · exact .inl ⟨rfl, .inl rfl⟩
  · exact .inr ⟨rfl, _, _, rfl⟩

/-- What a step can do to `DIRTY` and to the `Write` events of the trace: neither, both, or it is one of the two
steps that clear `DIRTY`, which write nothing. -/
theorem step_dirty_cases {s t : State} (h : step s = .next t) :
    WritesNoCell s t ∨
    (t.dirty = true ∧ ∃ a v, t.events = .write a v :: s.events) ∨
    (((∃ rest, s.inputs = .ackDirty :: rest) ∨ ∃ rest, s.inputs = .rst :: rest) ∧
      t.dirty = false ∧ ∀ a v, t.events ≠ .write a v :: s.events) := by
  rcases step_next h with ⟨-, hd⟩ | ⟨off, v, rest, -, hw⟩ | ⟨off, rest, -, rfl⟩ | ⟨rest, -, rfl⟩ |
    ⟨a, rest, -, hr⟩ | ⟨rest, hin, rfl⟩ | ⟨rest, hin, hr⟩
  · exact (deviceStep_dirty hd).imp_right .inl
  · have hq : WritesNoCell (dequeued s) t := hostWrite_writesNoCell hw
    exact .inl hq
  · exact .inl ⟨rfl, .inl rfl⟩
  · exact .inl ⟨rfl, .inl rfl⟩
  · have hq : WritesNoCell (dequeued s) t := fbRead_writesNoCell hr
    exact .inl hq
  · exact .inr (.inr ⟨.inl ⟨rest, hin⟩, rfl, fun _ _ => (List.cons_ne_self _ _).symm⟩)
  · obtain rfl := Host.Outcome.next.inj hr
    exact .inr (.inr ⟨.inr ⟨rest, hin⟩, rfl, fun _ _ => (List.cons_ne_nil _ _).symm⟩)

/-- Settles O42: each clause is ruled out by, or read off, one case of `step_dirty_cases`. -/
theorem dirtyTracksWrites : Obligations.DirtyTracksWrites := by
  intro s t h
  rcases step_dirty_cases h with hn | ⟨hd, hw⟩ | ⟨hc, hd, hne⟩
  · have hd : t.dirty = s.dirty := hn.1
    exact ⟨fun h1 h0 => by simp [hd, h1] at h0, fun h0 h1 => by simp [hd, h0] at h1,
      fun a v he => absurd he (hn.events_ne a v)⟩
  · exact ⟨fun _ h0 => by simp [hd] at h0, fun _ _ => hw, fun _ _ _ => hd⟩
  · exact ⟨fun _ _ => hc, fun _ h1 => by simp [hd] at h1, fun a v he => absurd he (hne a v)⟩

end Sys2Proof.Machine
end

section
/-! PROOFS. The line stepper's error term (10_state.md R41, 42_line.md R127 to R130). -/

namespace Sys2Proof.Machine

/-- The setup of the error term, with `dmaj` the larger and `dmin` the smaller of the two distances
(42_line.md R128, R130). -/
theorem lineSetup_errorTerm (x1 y1 x2 y2 : Int) :
    (lineSetup x1 y1 x2 y2).var =
      2 * (min (x2 - x1).natAbs (y2 - y1).natAbs : Nat) - (max (x2 - x1).natAbs (y2 - y1).natAbs : Nat) ∧
    (lineSetup x1 y1 x2 y2).incf = 2 * (min (x2 - x1).natAbs (y2 - y1).natAbs : Nat) ∧
    (lineSetup x1 y1 x2 y2).incd =
      2 * (min (x2 - x1).natAbs (y2 - y1).natAbs : Nat) - 2 * (max (x2 - x1).natAbs (y2 - y1).natAbs : Nat) := by
  unfold lineSetup
  simp only
  split <;> split <;> simp only [lineStart] <;> omega

/-- What one step keeps, any number of steps keep. -/
theorem lineStep_iterate_eq {α : Type} {f : LineRegs → α} (hf : ∀ l, f (lineStep l) = f l) (k : Nat)
    (l : LineRegs) : f (lineStep^[k] l) = f l := by
  induction k with
  | zero => rfl
  | succ k ih => rw [Function.iterate_succ_apply', hf, ih]

/-- The error term lies between its two increments, which have opposite signs: a negative `VAR` gains
`INCF >= 0`, a non-negative one gains `INCD <= 0`, and neither leaves the range (10_state.md R41). -/
def LineRegs.VarBounded (l : LineRegs) : Prop :=
  0 ≤ l.incf ∧ l.incd ≤ 0 ∧ l.incd ≤ l.var ∧ l.var < l.incf

theorem lineStep_varBounded {l : LineRegs} (h : l.VarBounded) : (lineStep l).VarBounded := by
  obtain ⟨hf, hd, hlo, hhi⟩ := h
  by_cases hv : l.var < 0
  · rw [lineStep_flat hv]
    exact ⟨hf, hd, by simp only; omega, by simp only; omega⟩
  · rw [lineStep_diagonal hv]
    exact ⟨hf, hd, by simp only; omega, by simp only; omega⟩

theorem lineStep_iterate_varBounded {l : LineRegs} (h : l.VarBounded) (k : Nat) : (lineStep^[k] l).VarBounded := by
  induction k with
  | zero => exact h
  | succ k ih =>
    rw [Function.iterate_succ_apply']
    exact lineStep_varBounded ih

/-- A line of more than one point starts inside the bounds. -/
theorem lineSetup_varBounded {x1 y1 x2 y2 : Int} (h : 0 < max (x2 - x1).natAbs (y2 - y1).natAbs) :
    (lineSetup x1 y1 x2 y2).VarBounded := by
  obtain ⟨hvar, hincf, hincd⟩ := lineSetup_errorTerm x1 y1 x2 y2
  refine ⟨?_, ?_, ?_, ?_⟩ <;> omega

/-- Settles O26: the bounds hold at the start of a line of more than one point and every step keeps them; a
line of one point takes no step. -/
theorem lineErrorTermIsBounded : Obligations.LineErrorTermIsBounded := by
  intro x1 y1 x2 y2 k dmaj dmin l u
  obtain ⟨hvar, hincf, hincd⟩ : l.var = 2 * (dmin : Int) - dmaj ∧ l.incf = 2 * (dmin : Int) ∧
      l.incd = 2 * (dmin : Int) - 2 * dmaj := lineSetup_errorTerm x1 y1 x2 y2
  have hle : dmin ≤ dmaj := min_le_max
  have hf : u.incf = l.incf := lineStep_iterate_eq lineStep_incf k l
  have hd : u.incd = l.incd := lineStep_iterate_eq lineStep_incd k l
  have hbounds : 0 < dmaj → u.incd ≤ u.var ∧ u.var < u.incf := by
    intro hpos
    obtain ⟨-, -, hlo, hhi⟩ := lineStep_iterate_varBounded (lineSetup_varBounded hpos) k
    exact ⟨hlo, hhi⟩
  have hstart : dmaj = 0 → k ≤ dmaj → u.var = l.var := by
    intro hzero hk
    obtain rfl : k = 0 := by omega
    rfl
  clear_value dmaj dmin l u
  refine ⟨hvar, ?_, ?_⟩ <;> intros <;> omega

end Sys2Proof.Machine
end

section
/-! PROOFS. The circle's octant generator (10_state.md R42, 44_circle.md R159 to R162). -/

namespace Sys2Proof.Machine

/-! ### The generator and the machine's registers -/

/-- The generator's part of the working registers of `CIRCLE`. -/
def CircleRegs.octant (c : CircleRegs) : Octant := (c.d1, c.d2, c.var)

theorem circleSetup_octant (cx cy r : Int) : (circleSetup cx cy r).octant = (0, r, 1 - r) := rfl

/-- The machine's generator step is the generator's step on its part of the registers. -/
theorem octant_semiconj_genStep : Function.Semiconj CircleRegs.octant circleGenStep octantStep := by
  intro c
  by_cases hv : c.var < 0
  · simp [CircleRegs.octant, circleGenStep, octantStep, hv]
  · simp [CircleRegs.octant, circleGenStep, octantStep, hv]

/-! ### The list of states -/

/-- `h` follows `g` in the generated sequence: the loop condition holds at `g` (44_circle.md R160). -/
def OctantNext (g h : Octant) : Prop := g.1 < g.2.1 ∧ h = octantStep g

theorem octantsFrom_head? (fuel : Nat) (g : Octant) : (octantsFrom fuel g).head? = some g := by
  cases fuel with
  | zero => rfl
  | succ n =>
    unfold octantsFrom
    split <;> rfl

theorem octantsFrom_ne_nil (fuel : Nat) (g : Octant) : octantsFrom fuel g ≠ [] :=
  List.isSome_head?.mp (by rw [octantsFrom_head?, Option.isSome_some])

theorem octantsFrom_isChain (fuel : Nat) (g : Octant) : (octantsFrom fuel g).IsChain OctantNext := by
  induction fuel generalizing g with
  | zero => exact .singleton g
  | succ n ih =>
    unfold octantsFrom
    split
    · rename_i hlt
      refine List.isChain_cons.mpr ⟨fun h hh => ?_, ih _⟩
      rw [octantsFrom_head?, Option.mem_some_iff] at hh
      exact ⟨hlt, hh.symm⟩
    · exact .singleton g

/-- Every state but the last is followed by its generator step. -/
theorem octantsFrom_next {fuel : Nat} {g : Octant} {i : Nat} (h : i + 1 < (octantsFrom fuel g).length) :
    OctantNext (octantsFrom fuel g)[i] (octantsFrom fuel g)[i + 1] :=
  List.isChain_iff_getElem.mp (octantsFrom_isChain fuel g) i h

theorem octantsFrom_getElem_zero {fuel : Nat} {g : Octant} (h : 0 < (octantsFrom fuel g).length) :
    (octantsFrom fuel g)[0] = g := by
  have hhead := octantsFrom_head? fuel g
  rw [List.head?_eq_getElem?, List.getElem?_eq_some_iff] at hhead
  exact hhead.2

theorem octantsFrom_getElem {fuel : Nat} {g : Octant} {i : Nat} (h : i < (octantsFrom fuel g).length) :
    (octantsFrom fuel g)[i] = octantStep^[i] g := by
  induction i with
  | zero => exact octantsFrom_getElem_zero h
  | succ i ih => rw [(octantsFrom_next h).2, ih, Function.iterate_succ_apply']

/-! ### Bounds -/

theorem octantStep_d1 (g : Octant) : (octantStep g).1 = g.1 + 1 := by
  unfold octantStep
  split <;> rfl

theorem octantStep_iterate_d1 (i : Nat) (g : Octant) : (octantStep^[i] g).1 = g.1 + i := by
  induction i with
  | zero => simp
  | succ i ih =>
    rw [Function.iterate_succ_apply', octantStep_d1, ih]
    push_cast
    ring

/-- The bounds of 44_circle.md R162 and 10_state.md R42.  `VAR` grows from a non-negative value only in the last
iteration, and then by at most 3, so before it `VAR` keeps a bound that is lower by 3. -/
structure OctantInv (r : Int) (g : Octant) : Prop where
  d1_nonneg : 0 ≤ g.1
  d1_le : g.1 ≤ r
  d2_nonneg : 0 ≤ g.2.1
  d2_le : g.2.1 ≤ r
  d1_le_d2_add_one : g.1 ≤ g.2.1 + 1
  var_ge : -2 * r ≤ g.2.2
  var_le : g.2.2 ≤ 2 * r + 5
  var_le_of_lt : g.1 < g.2.1 → g.2.2 ≤ 2 * r + 2

theorem octantInv_start {r : Int} (h : 0 ≤ r) : OctantInv r (0, r, 1 - r) := by
  constructor <;> simp only <;> omega

theorem octantStep_inv {r : Int} {g : Octant} (hlt : g.1 < g.2.1) (hi : OctantInv r g) :
    OctantInv r (octantStep g) := by
  obtain ⟨h1, h1r, h2, h2r, -, hlo, -, hhi⟩ := hi
  specialize hhi hlt
  unfold octantStep
  split
  · constructor <;> simp only <;> omega
  · constructor <;> simp only <;> omega

theorem octantsFrom_inv {r : Int} {fuel : Nat} {g : Octant} (hg : OctantInv r g) {i : Nat}
    (h : i < (octantsFrom fuel g).length) : OctantInv r (octantsFrom fuel g)[i] := by
  induction i with
  | zero => rwa [octantsFrom_getElem_zero h]
  | succ i ih =>
    obtain ⟨hlt, hnext⟩ := octantsFrom_next h
    rw [hnext]
    exact octantStep_inv hlt (ih (by omega))

/-- With enough fuel the list ends because the loop condition fails: `D1` gains 1 a step and `D2` stays at
most `r`. -/
theorem octantsFrom_last {r : Int} {fuel : Nat} {g h : Octant} (hg : OctantInv r g) (hfuel : r ≤ g.1 + fuel)
    (hlast : (octantsFrom fuel g).getLast? = some h) : h.2.1 ≤ h.1 := by
  induction fuel generalizing g with
  | zero =>
    obtain rfl : g = h := Option.some.inj hlast
    have hle : g.2.1 ≤ r := hg.d2_le
    omega
  | succ n ih =>
    unfold octantsFrom at hlast
    split at hlast
    · rename_i hlt
      refine ih (octantStep_inv hlt hg) ?_ ?_
      · rw [octantStep_d1]
        omega
      · rwa [List.getLast?_cons_of_ne_nil (octantsFrom_ne_nil n _)] at hlast
    · obtain rfl : g = h := Option.some.inj hlast
      omega

/-- Settles O27: the list is a chain of generator steps from the initial state, so its `i`-th state is the
`i`-th iterate and satisfies `OctantInv`. -/
theorem octantGeneratorIsBounded : Obligations.OctantGeneratorIsBounded := by
  intro r i g hr hget
  obtain ⟨hi, rfl⟩ := List.getElem?_eq_some_iff.mp hget
  have hiter : (octants r)[i] = octantStep^[i] (0, r, 1 - r) := octantsFrom_getElem hi
  have hinv : OctantInv r (octants r)[i] := octantsFrom_inv (octantInv_start hr) hi
  obtain ⟨h1, h1r, h2, h2r, hnear, hlo, hhi, -⟩ := hinv
  refine ⟨?_, h1, h1r, h2, h2r, hlo, hhi, fun _ => by omega, ?_, ?_, ?_, ?_⟩
  · rw [hiter, octantStep_iterate_d1, zero_add]
  · rintro rfl
    exact hiter
  · intro cx cy
    rw [hiter, ← circleSetup_octant cx cy r]
    exact octant_semiconj_genStep.iterate_right i (circleSetup cx cy r)
  · intro hnext
    obtain ⟨hlt, hstep⟩ : OctantNext (octants r)[i] (octants r)[i + 1] := octantsFrom_next hnext
    exact ⟨hlt, List.getElem?_eq_some_iff.mpr ⟨hnext, hstep⟩⟩
  · intro hlen
    have hindex : (octants r).length - 1 = i := by omega
    have hlast : (octants r).getLast? = some (octants r)[i] := by rw [List.getLast?_eq_getElem?, hindex, hget]
    exact ⟨octantsFrom_last (octantInv_start hr) (by simp only; omega) hlast, hnear⟩

end Sys2Proof.Machine
end

section
/-! PROOFS. The display port (20_memory.md R56). -/

namespace Sys2Proof.Machine

/-- A display read in range answers the cell's content and only takes its transaction from the queue. -/
theorem step_fbRead_inside {s : State} {a : Nat} {rest : List Input} (hin : s.inputs = .fbRead a :: rest)
    (ha : a < s.size) : step s = .next { s with inputs := rest, displayData := s.fb.read a } := by
  rw [step_input hin, perform]
  rcases fbRead_cases a { s with inputs := rest } with ⟨-, he⟩ | ⟨hout, -⟩
  · exact he
  · exact absurd ha hout

/-- Settles O8: the answer is the cell's content, which `CellsAgree` equates with the latest write. -/
theorem displayReadReturnsLatestWrite : Obligations.DisplayReadReturnsLatestWrite := by
  intro s a rest hin ha hagree
  have hcell : s.fb.read a = lastWrite s.events a := hagree a
  exact ⟨hcell ▸ step_fbRead_inside hin ha, hcell⟩

end Sys2Proof.Machine
end

section
/-! PROOFS. The colour commands (40_framebuffer_color.md R93 to R96). -/

namespace Sys2Proof.Machine

/-- Settles O13: an idle block accepts the command. -/
theorem setcolorLoadsColor : Obligations.SetcolorLoadsColor :=
  fun _ hidle => exec_setcolor (busy_eq_false.mp hidle)

/-- Settles O14: an idle block accepts the command. -/
theorem rstcolorRestoresWhite : Obligations.RstcolorRestoresWhite :=
  fun _ hidle => exec_rstcolor (busy_eq_false.mp hidle)

/-! ### The packing formula (40_framebuffer_color.md R95) -/

/-- A mask of `w` ones at bit `k` selects the field of bits `k+w-1 .. k`. -/
theorem and_mask_eq_field (x k w : Nat) : x &&& (2 ^ w - 1) <<< k = ((x >>> k) % 2 ^ w) <<< k := by
  rw [← Nat.and_two_pow_sub_one_eq_mod, Nat.shiftLeft_and_distrib]
  refine Nat.eq_of_testBit_eq fun i => ?_
  by_cases hki : k ≤ i <;> simp [hki]

/-- The first term of the formula: `r[7:3]` at bits 15:11. -/
theorem packNat_red_term (r : Channel) : (r.toNat &&& 0xF8) <<< 8 = (r.extractLsb' 3 5).toNat <<< 11 := by
  rw [BitVec.extractLsb'_toNat, Nat.shiftLeft_add _ 3 8]
  exact congrArg (· <<< 8) (and_mask_eq_field r.toNat 3 5)

/-- The second term of the formula: `g[7:2]` at bits 10:5. -/
theorem packNat_green_term (g : Channel) : (g.toNat &&& 0xFC) <<< 3 = (g.extractLsb' 2 6).toNat <<< 5 := by
  rw [BitVec.extractLsb'_toNat, Nat.shiftLeft_add _ 2 3]
  exact congrArg (· <<< 3) (and_mask_eq_field g.toNat 2 6)

/-- The third term of the formula: `b[7:3]` at bits 4:0. -/
theorem packNat_blue_term (b : Channel) : (b.toNat >>> 3) &&& 0x1F = (b.extractLsb' 3 5).toNat := by
  rw [BitVec.extractLsb'_toNat]
  exact Nat.and_two_pow_sub_one_eq_mod _ 5

/-- R95's field table: `{r[7:3], g[7:2], b[7:3]}`. -/
def colorFields (r g b : Channel) : Word := r.extractLsb' 3 5 ++ (g.extractLsb' 2 6 ++ b.extractLsb' 3 5)

/-- Joining fields that do not overlap adds them. -/
theorem toNat_append_eq_add {m n : Nat} (x : BitVec m) (y : BitVec n) :
    (x ++ y).toNat = x.toNat <<< n + y.toNat := by
  rw [BitVec.toNat_append, Nat.shiftLeft_add_eq_or_of_lt y.isLt]

theorem packNat_eq_fields (r g b : Channel) : packNat r.toNat g.toNat b.toNat = (colorFields r g b).toNat := by
  unfold packNat colorFields
  rw [packNat_red_term, packNat_green_term, packNat_blue_term, BitVec.toNat_append, BitVec.toNat_append,
    Nat.or_assoc]

theorem packNat_eq_sum (r g b : Channel) :
    packNat r.toNat g.toNat b.toNat =
      ((r.toNat &&& 0xF8) <<< 8) + ((g.toNat &&& 0xFC) <<< 3) + ((b.toNat >>> 3) &&& 0x1F) := by
  rw [packNat_eq_fields, colorFields, toNat_append_eq_add, toNat_append_eq_add, packNat_red_term,
    packNat_green_term, packNat_blue_term, Nat.add_assoc]

theorem packColor_eq_fields (r g b : Channel) : packColor r g b = colorFields r g b := by
  rw [packColor, packNat_eq_fields, BitVec.ofNat_toNat, BitVec.setWidth_eq]

/-- Settles O16: each term of the formula is one field, at a place of its own in 16 bits. -/
theorem packFormulaIsFieldLayout : Obligations.PackFormulaIsFieldLayout := by
  intro r g b
  refine ⟨packColor_eq_fields r g b, packNat_eq_sum r g b, ?_⟩
  rw [packNat_eq_fields]
  exact (colorFields r g b).isLt

/-- A field of the low byte is the same field of the word. -/
theorem u8_field (v : Word) {start len : Nat} (h : start + len ≤ 8) :
    (u8 v).extractLsb' start len = v.extractLsb' start len :=
  BitVec.extractLsb'_extractLsb'_of_le h

/-- Settles O15: `PACK` writes `packColor` of the three low bytes, whose fields are those of the registers. -/
theorem packWritesPackedColor : Obligations.PackWritesPackedColor := by
  intro s hidle
  rw [exec_pack (busy_eq_false.mp hidle), packColor_eq_fields, colorFields, u8_field s.arg0 (by decide),
    u8_field s.arg1 (by decide), u8_field s.arg2 (by decide)]

end Sys2Proof.Machine
end

section
/-! PROOFS. `CLEAR`: the sweep over the framebuffer (40_framebuffer_color.md R92). -/

namespace Sys2Proof.Machine

/-! ### The writes of the sweep -/

theorem clearAdvance_before_last {size idx : Nat} (h : idx + 1 < size) : clearAdvance size idx = some (idx + 1) :=
  if_pos h

theorem clearAdvance_last {size idx : Nat} (h : idx + 1 = size) : clearAdvance size idx = none :=
  if_neg (by omega)

theorem clear_index_inside {s : State} {idx : Nat} (h : idx < s.size) :
    0 ≤ (Operation.clear idx).index s.width ∧ (Operation.clear idx).index s.width < s.size := by
  simp only [Operation.index]
  omega

/-- A sweep that stands at `idx` with `n` more cells after it zeroes them all, ascending. -/
theorem performs_clear_from {s : State} {idx n : Nat} (hin : s.inputs = []) (hop : s.op = some (.clear idx))
    (hsize : idx + 1 + n = s.size) : Performs ((List.range' idx (n + 1)).map fun a => (a, 0)) s := by
  induction n generalizing s idx with
  | zero =>
    have hlast : (Operation.clear idx).advance s.size = none := by
      rw [Operation.advance, clearAdvance_last hsize, Option.map_none]
    exact performs_last hin hop (clear_index_inside (by omega)) hlast
  | succ n ih =>
    have hnext : (Operation.clear idx).advance s.size = some (.clear (idx + 1)) := by
      rw [Operation.advance, clearAdvance_before_last (by omega), Option.map_some]
    have hrest : idx + 1 + 1 + n = s.size := by omega
    exact performs_cons hin hop (clear_index_inside (by omega)) hnext (ih hin rfl hrest)

/-- A sweep that stands at cell 0 performs `CLEAR`'s writes. -/
theorem performs_clear {s : State} (hin : s.inputs = []) (hop : s.op = some (.clear 0)) (hpos : 0 < s.size) :
    Performs (clearWrites s.size) s := by
  obtain ⟨n, hn⟩ : ∃ n, s.size = n + 1 := Nat.exists_eq_add_one.mpr hpos
  have hsweep := performs_clear_from hin hop (n := n) (by omega)
  rwa [← hn, ← List.range_eq_range'] at hsweep

/-! ### The cells after the sweep -/

/-- A cell that no entry lists reads 0. -/
theorem read_of_not_listed {m : Memory} {a : Nat} (h : ∀ p ∈ m, p.1 ≠ a) : m.read a = 0 := by
  induction m with
  | nil => rfl
  | cons p m ih =>
    obtain ⟨b, u⟩ := p
    obtain ⟨hb, hm⟩ := List.forall_mem_cons.mp h
    rw [read_cons, if_neg (Ne.symm hb)]
    exact ih hm

/-- After writing 0 to the cells of a list, a cell of the list, or one that was 0 before, reads 0. -/
theorem read_applyWrites_zero {m : Memory} {cells : List Nat} {a : Nat} (hwf : m.wf = true)
    (h : a ∈ cells ∨ m.read a = 0) : (applyWrites m (cells.map fun c => (c, 0))).read a = 0 := by
  induction cells generalizing m with
  | nil => exact h.resolve_left List.not_mem_nil
  | cons c cells ih =>
    rw [List.map_cons, applyWrites_cons]
    refine ih (write_wf c 0 hwf) ?_
    by_cases hac : a = c
    · exact .inr (hac ▸ read_write_same c 0 hwf)
    · rw [read_write_other 0 hac]
      exact h.imp_left (List.mem_of_ne_of_mem hac)

/-- In a safe state the sweep reaches every cell that is not 0 already. -/
theorem read_after_clear {s : State} (h : s.Inv) (a : Nat) :
    (applyWrites s.fb (clearWrites s.size)).read a = 0 := by
  obtain ⟨-, hwf, hcells, -⟩ := h
  refine read_applyWrites_zero hwf ?_
  by_cases ha : a < s.size
  · exact .inl (List.mem_range.mpr ha)
  · exact .inr (read_of_not_listed fun p hp hpa => ha (hpa ▸ hcells p hp))

/-- A legal geometry has at least one cell (00_scope.md R7). -/
theorem size_pos {s : State} (h : geometryWf s.width s.height = true) : 0 < s.size := by
  obtain ⟨hw, -, hh, -⟩ := (geometryWf_iff _ _).mp h
  exact Nat.mul_pos hw hh

/-- Settles O17: `CLEAR` latches the sweep at cell 0, `performs_clear` gives its writes and `read_after_clear`
the cells. -/
theorem clearZeroesEveryCellInOrder : Obligations.ClearZeroesEveryCellInOrder := by
  intro s hidle
  refine ⟨.clear 0, exec_clear (busy_eq_false.mp hidle), fun hinv hin => ⟨?_, read_after_clear hinv⟩⟩
  obtain ⟨hgeom, -⟩ := hinv
  exact performs_clear (s := beginOperation (.clear 0) s) hin (beginOperation_op _ _) (size_pos hgeom)

end Sys2Proof.Machine
end

section
/-! PROOFS. The frame of every command (40_framebuffer_color.md R91). -/

namespace Sys2Proof.Machine

/-- Everything an acceptance step that answers a next state can have done. -/
theorem exec_next {i : Instr} {s t : State} (h : exec i s = .next t) :
    t = s ∨
    (∃ c, (i = .setcolor ∨ i = .rstcolor) ∧ t = { s with color := c }) ∨
    (∃ v, i = .pack ∧ t = { s with arg0 := v }) ∨
    (∃ o, Writes i ∧ t = beginOperation o s) ∨
    (∃ e, Validates i ∧ t = raiseError e s) := by
  rcases exec_cases i s with he | ⟨hi, -, he⟩ | ⟨hi, -, he⟩ | ⟨hi, -, he⟩ | ⟨o, -, hi, -, he⟩ | ⟨e, -, hi, he⟩ <;>
    obtain rfl := Host.Outcome.next.inj (he.symm.trans h)
  · exact .inl rfl
  · exact .inr (.inl ⟨_, .inl hi, rfl⟩)
  · exact .inr (.inl ⟨_, .inr hi, rfl⟩)
  · exact .inr (.inr (.inl ⟨_, hi, rfl⟩))
  · exact .inr (.inr (.inr (.inl ⟨o, hi, rfl⟩)))
  · exact .inr (.inr (.inr (.inr ⟨e, hi, rfl⟩)))

/-- The fields that no acceptance step changes. -/
def AcceptanceKeeps (s t : State) : Prop :=
  t.fb = s.fb ∧ t.dirty = s.dirty ∧ t.arg1 = s.arg1 ∧ t.arg2 = s.arg2 ∧ t.arg3 = s.arg3 ∧
    t.width = s.width ∧ t.height = s.height ∧
    t.inputs = s.inputs ∧ t.hostData = s.hostData ∧ t.displayData = s.displayData ∧ t.draws = s.draws

theorem exec_acceptanceKeeps {i : Instr} {s t : State} (h : exec i s = .next t) : AcceptanceKeeps s t := by
  rcases exec_next h with rfl | ⟨c, -, rfl⟩ | ⟨v, -, rfl⟩ | ⟨o, -, rfl⟩ | ⟨e, -, rfl⟩ <;>
    exact ⟨rfl, rfl, rfl, rfl, rfl, rfl, rfl, rfl, rfl, rfl, rfl⟩

/-- Only `PACK` changes `ARG0`. -/
theorem exec_arg0 {i : Instr} {s t : State} (h : exec i s = .next t) (hi : i ≠ .pack) : t.arg0 = s.arg0 := by
  rcases exec_next h with rfl | ⟨c, -, rfl⟩ | ⟨v, hp, rfl⟩ | ⟨o, -, rfl⟩ | ⟨e, -, rfl⟩
  case inr.inr.inl => exact absurd hp hi
  all_goals rfl

/-- Only `SETCOLOR` and `RSTCOLOR` change `COLOR`. -/
theorem exec_color {i : Instr} {s t : State} (h : exec i s = .next t) (hset : i ≠ .setcolor)
    (hrst : i ≠ .rstcolor) : t.color = s.color := by
  rcases exec_next h with rfl | ⟨c, hc, rfl⟩ | ⟨v, -, rfl⟩ | ⟨o, -, rfl⟩ | ⟨e, -, rfl⟩
  case inr.inl => exact absurd hc (not_or.mpr ⟨hset, hrst⟩)
  all_goals rfl

/-- Only a command that writes cells latches an operation. -/
theorem exec_op {i : Instr} {s t : State} (h : exec i s = .next t) (hi : ¬ Writes i) : t.op = s.op := by
  rcases exec_next h with rfl | ⟨c, -, rfl⟩ | ⟨v, -, rfl⟩ | ⟨o, hw, rfl⟩ | ⟨e, -, rfl⟩
  case inr.inr.inr.inl => exact absurd hw hi
  all_goals rfl

/-- The error registers and the trace are as before, or an error was raised by a command with a validator. -/
theorem exec_error {i : Instr} {s t : State} (h : exec i s = .next t) :
    (t.err = s.err ∧ t.errcode = s.errcode ∧ t.events = s.events) ∨
    (Validates i ∧ t.op = s.op ∧ t.events = .signalError t.errcode :: s.events) := by
  rcases exec_next h with rfl | ⟨c, -, rfl⟩ | ⟨v, -, rfl⟩ | ⟨o, -, rfl⟩ | ⟨e, hv, rfl⟩
  case inr.inr.inr.inr => exact .inr ⟨hv, rfl, rfl⟩
  all_goals exact .inl ⟨rfl, rfl, rfl⟩

theorem not_writes_of_color {i : Instr} (h : i = .setcolor ∨ i = .rstcolor ∨ i = .pack) : ¬ Writes i := by
  rcases h with rfl | rfl | rfl <;> simp [Writes]

theorem not_validates_of_clear_or_color {i : Instr} (h : i = .clear ∨ i = .setcolor ∨ i = .rstcolor ∨ i = .pack) :
    ¬ Validates i := by
  rcases h with rfl | rfl | rfl | rfl <;> simp [Validates]

/-- The fields that no device step changes. -/
def DeviceKeeps (s t : State) : Prop :=
  t.arg0 = s.arg0 ∧ t.arg1 = s.arg1 ∧ t.arg2 = s.arg2 ∧ t.arg3 = s.arg3 ∧ t.color = s.color ∧
    t.err = s.err ∧ t.errcode = s.errcode ∧ t.width = s.width ∧ t.height = s.height ∧
    t.inputs = s.inputs ∧ t.hostData = s.hostData ∧ t.displayData = s.displayData ∧ t.draws = s.draws

theorem deviceStep_deviceKeeps {s t : State} (h : deviceStep s = .next t) : DeviceKeeps s t := by
  rcases deviceStep_cases h with ⟨-, rfl⟩ | ⟨o, -, -, rfl⟩ <;>
    exact ⟨rfl, rfl, rfl, rfl, rfl, rfl, rfl, rfl, rfl, rfl, rfl, rfl, rfl⟩

/-- Settles O35: the fields no acceptance step changes, then one lemma per field that some command changes; the
device step's part is `deviceStep_deviceKeeps`. -/
theorem commandFrame : Obligations.CommandFrame := by
  refine ⟨fun i s t h => ?_, fun s t => deviceStep_deviceKeeps⟩
  obtain ⟨hfb, hdirty, harg1, harg2, harg3, hwidth, hheight, hports⟩ := exec_acceptanceKeeps h
  refine ⟨fun a => by rw [hfb], hdirty, harg1, harg2, harg3, hwidth, hheight, exec_arg0 h, exec_color h,
    fun hi => exec_op h (not_writes_of_color hi), fun hi => ?_, fun hne => ?_, hports⟩
  · exact (exec_error h).resolve_right fun he => not_validates_of_clear_or_color hi he.1
  · rcases exec_error h with ⟨herr, hcode, -⟩ | ⟨-, hraised⟩
    · exact absurd hne (by simp [herr, hcode])
    · exact hraised

end Sys2Proof.Machine
end

section
/-! PROOFS. `PIXEL`: the one write at a validated point (41_validate_pixel.md R113, R114). -/

namespace Sys2Proof.Machine

/-- A latched pixel inside the framebuffer performs its one `Plot`: it has no write after the first. -/
theorem performs_pixel {s : State} {x y : Int} (hin : s.inputs = []) (hop : s.op = some (.pixel x y))
    (hp : PointIn s.width s.height x y) : Performs [plotWrite s.width s.color x y] s :=
  performs_last hin hop (cellIndex_bounds hp) rfl

/-- Settles O18: in bounds, `PIXEL` latches the point, whose one write is `performs_pixel`'s; out of bounds, it
raises its error. -/
theorem pixelWritesOneCellOrRaises : Obligations.PixelWritesOneCellOrRaises := by
  intro s hidle
  have hop : s.op = none := busy_eq_false.mp hidle
  refine ⟨fun hp => ?_, fun hp => exec_pixel_rejected hop hp⟩
  refine ⟨.pixel s.arg0.toInt s.arg1.toInt, exec_pixel_drawn hop hp, fun hin => ?_⟩
  exact performs_pixel (s := beginOperation (.pixel _ _) s) hin (beginOperation_op _ _) hp

end Sys2Proof.Machine
end

section
/-! PROOFS. `LINE`: the stepper's path is the closed form, and the device draws it (42_line.md R125, R126, R132). -/

namespace Sys2Proof.Machine

/-! ### The stepper after `k` steps (42_line.md R130) -/

/-- The registers `k` steps after `l`, of which `a` moved the secondary coordinate: a step adds `INCF` to the error
term, or `INCD` where it moves. -/
def LineRegs.stepped (l : LineRegs) (k a : Nat) : LineRegs :=
  { l with
    maj := l.maj + k
    min := l.min + stepSign l.step * a
    var := l.var + k * l.incf - a * (l.incf - l.incd) }

theorem lineStep_stepped_flat {l : LineRegs} {k a : Nat} (h : (l.stepped k a).var < 0) :
    lineStep (l.stepped k a) = l.stepped (k + 1) a := by
  rw [lineStep_flat h]
  simp only [LineRegs.stepped, LineRegs.mk.injEq, true_and, and_true]
  constructor <;> push_cast <;> ring

theorem lineStep_stepped_diagonal {l : LineRegs} {k a : Nat} (h : ¬ (l.stepped k a).var < 0) :
    lineStep (l.stepped k a) = l.stepped (k + 1) (a + 1) := by
  rw [lineStep_diagonal h]
  simp only [LineRegs.stepped, LineRegs.mk.injEq, true_and, and_true]
  refine ⟨?_, ?_, ?_⟩ <;> push_cast <;> ring

theorem lineStep_iterate_stepped (l : LineRegs) (k : Nat) : ∃ a, lineStep^[k] l = l.stepped k a := by
  induction k with
  | zero => exact ⟨0, by simp [LineRegs.stepped]⟩
  | succ k ih =>
    obtain ⟨a, ha⟩ := ih
    rw [Function.iterate_succ_apply', ha]
    by_cases hv : (l.stepped k a).var < 0
    · exact ⟨a, lineStep_stepped_flat hv⟩
    · exact ⟨a + 1, lineStep_stepped_diagonal hv⟩

theorem lineStep_iterate_maj (l : LineRegs) (k : Nat) : (lineStep^[k] l).maj = l.maj + k := by
  obtain ⟨a, ha⟩ := lineStep_iterate_stepped l k
  rw [ha]
  rfl

/-! ### The closed form (42_line.md R132) -/

/-- After `k` steps the error term lies between its two increments for one number of secondary steps only. -/
theorem lineOffset_eq_of_bounds {dmaj dmin k a : Nat}
    (hlo : 2 * (dmin : Int) - 2 * dmaj ≤ 2 * dmin - dmaj + k * (2 * dmin) - a * (2 * dmaj))
    (hhi : 2 * (dmin : Int) - dmaj + k * (2 * dmin) - a * (2 * dmaj) < 2 * dmin) :
    lineOffset dmaj dmin k = a := by
  refine Nat.div_eq_of_lt_le ?_ ?_ <;> zify <;> linarith

/-- Every setup steps `max(|x2-x1|, |y2-y1|)` times. -/
theorem lineSetup_last (x1 y1 x2 y2 : Int) :
    (lineSetup x1 y1 x2 y2).maj + (max (x2 - x1).natAbs (y2 - y1).natAbs : Nat) =
      (lineSetup x1 y1 x2 y2).last := by
  unfold lineSetup
  simp only
  split <;> split <;> simp only [lineStart] <;> omega

/-- The bound on the error term (10_state.md R41) fixes how many of `k` steps moved the secondary coordinate. -/
theorem lineStep_iterate_lineSetup {x1 y1 x2 y2 : Int} {k : Nat}
    (hk : k ≤ max (x2 - x1).natAbs (y2 - y1).natAbs) :
    lineStep^[k] (lineSetup x1 y1 x2 y2) = (lineSetup x1 y1 x2 y2).stepped k
      (lineOffset (max (x2 - x1).natAbs (y2 - y1).natAbs) (min (x2 - x1).natAbs (y2 - y1).natAbs) k) := by
  rcases Nat.eq_zero_or_pos (max (x2 - x1).natAbs (y2 - y1).natAbs) with hzero | hpos
  · obtain rfl : k = 0 := by omega
    simp [LineRegs.stepped, lineOffset, hzero]
  · obtain ⟨a, ha⟩ := lineStep_iterate_stepped (lineSetup x1 y1 x2 y2) k
    have hbound := lineStep_iterate_varBounded (lineSetup_varBounded hpos) k
    obtain ⟨hvar, hincf, hincd⟩ := lineSetup_errorTerm x1 y1 x2 y2
    rw [ha] at hbound
    obtain ⟨-, -, hlo, hhi⟩ := hbound
    simp only [LineRegs.stepped, hvar, hincf, hincd, sub_sub_cancel] at hlo hhi
    rw [ha, lineOffset_eq_of_bounds hlo hhi]

/-- The secondary coordinate goes towards the other endpoint's (42_line.md R129). -/
theorem lineStart_stepped_min (overY : Bool) (maj min last mend dmaj dmin : Int) (k a : Nat) :
    ((lineStart overY maj min last mend dmaj dmin).stepped k a).min = if min ≤ mend then min + a else min - a := by
  simp only [LineRegs.stepped, lineStart]
  by_cases h : min ≤ mend
  · rw [if_neg h.not_gt, if_pos h, stepSign, one_mul]
  · rw [if_pos (not_le.mp h), if_neg h, stepSign, neg_one_mul, sub_eq_add_neg]

/-- The point of a normalised line (42_line.md R131). -/
theorem lineStart_stepped_point (overY : Bool) (maj min last mend dmaj dmin : Int) (k a : Nat) :
    (lineColumn ((lineStart overY maj min last mend dmaj dmin).stepped k a),
      lineRow ((lineStart overY maj min last mend dmaj dmin).stepped k a)) =
    if overY then (if min ≤ mend then min + a else min - a, maj + k)
    else (maj + k, if min ≤ mend then min + a else min - a) := by
  rw [lineColumn, lineRow, lineStart_stepped_min]
  cases overY <;> rfl

/-- The closed form starts at the setup's start, in each of the four cases of 42_line.md R129. -/
theorem linePoint_eq_lineStep_iterate {x1 y1 x2 y2 : Int} {k : Nat}
    (hk : k ≤ max (x2 - x1).natAbs (y2 - y1).natAbs) :
    linePoint x1 y1 x2 y2 k =
      (lineColumn (lineStep^[k] (lineSetup x1 y1 x2 y2)), lineRow (lineStep^[k] (lineSetup x1 y1 x2 y2))) := by
  rw [lineStep_iterate_lineSetup hk]
  by_cases haxis : (x2 - x1).natAbs < (y2 - y1).natAbs
  · rw [max_eq_right haxis.le, min_eq_left haxis.le]
    simp only [linePoint, lineSetup, Int.ofNat_lt, if_pos haxis]
    by_cases hord : y1 ≤ y2
    · rw [if_pos hord, if_neg hord.not_gt, lineStart_stepped_point, if_pos rfl]
    · rw [if_neg hord, if_pos (not_le.mp hord), lineStart_stepped_point, if_pos rfl]
  · rw [max_eq_left (not_lt.mp haxis), min_eq_right (not_lt.mp haxis)]
    simp only [linePoint, lineSetup, Int.ofNat_lt, if_neg haxis]
    by_cases hord : x1 ≤ x2
    · rw [if_pos hord, if_neg hord.not_gt, lineStart_stepped_point, if_neg Bool.false_ne_true]
    · rw [if_neg hord, if_pos (not_le.mp hord), lineStart_stepped_point, if_neg Bool.false_ne_true]

/-! ### The writes of the stepper -/

/-- `PlotL(MAJ, MIN)` (42_line.md R131). -/
def plotL (w : Nat) (color : Word) (l : LineRegs) : Nat × Word := plotWrite w color (lineColumn l) (lineRow l)

theorem lineWrites_eq_plotL (w : Nat) (color : Word) (x1 y1 x2 y2 : Int) :
    lineWrites w color x1 y1 x2 y2 =
      (List.range (max (x2 - x1).natAbs (y2 - y1).natAbs + 1)).map fun k =>
        plotL w color (lineStep^[k] (lineSetup x1 y1 x2 y2)) := by
  refine List.map_congr_left fun k hk => ?_
  rw [linePoint_eq_lineStep_iterate (by simpa [Nat.lt_succ_iff] using hk), plotL]

theorem LineRegs.Inv.pointIn {w h : Nat} {l : LineRegs} (hi : l.Inv w h) :
    PointIn w h (lineColumn l) (lineRow l) := by
  obtain ⟨m, d, -, -, -, -, -, -, hp, -⟩ := hi
  exact hp

theorem lineStep_iterate_inv {w h k : Nat} {l : LineRegs} (hi : l.Inv w h) (hk : l.maj + k ≤ l.last) :
    (lineStep^[k] l).Inv w h := by
  induction k with
  | zero => exact hi
  | succ k ih =>
    rw [Function.iterate_succ_apply']
    refine lineStep_inv ?_ (ih (by omega))
    rw [lineStep_iterate_maj, lineStep_iterate_eq lineStep_last]
    omega

/-- A stepper inside the grid with `n` steps to go plots its `n + 1` points in order. -/
theorem performs_line_from {s : State} {l : LineRegs} {n : Nat} (hin : s.inputs = [])
    (hop : s.op = some (.line l)) (hi : l.Inv s.width s.height) (hn : l.maj + n = l.last) :
    Performs ((List.range (n + 1)).map fun k => plotL s.width s.color (lineStep^[k] l)) s := by
  induction n generalizing s l with
  | zero =>
    have hlast : lineAdvance l = none := if_neg (by omega)
    exact performs_last hin hop (operation_index_inside (o := .line l) hi)
      (by rw [Operation.advance, hlast, Option.map_none])
  | succ n ih =>
    have hlt : l.maj < l.last := by omega
    have hnext : (Operation.line l).advance s.size = some (.line (lineStep l)) := by
      rw [Operation.advance, lineAdvance, if_pos hlt, Option.map_some]
    rw [List.range_succ_eq_map, List.map_cons, List.map_map]
    exact performs_cons hin hop (operation_index_inside (o := .line l) hi) hnext
      (ih (s := wrote s _ _ _) hin rfl (lineStep_inv hlt hi) (by rw [lineStep_maj, lineStep_last]; omega))

/-! ### No cell twice -/

theorem cellIndex_emod {w h : Nat} {x y : Int} (hp : PointIn w h x y) : cellIndex w x y % w = x := by
  obtain ⟨hx0, hxw, -, -⟩ := hp
  rw [cellIndex, Int.add_comm, Int.add_mul_emod_self_right, Int.emod_eq_of_lt hx0 hxw]

theorem cellIndex_ediv {w h : Nat} {x y : Int} (hp : PointIn w h x y) : cellIndex w x y / w = y := by
  obtain ⟨hx0, hxw, -, -⟩ := hp
  rw [cellIndex, Int.add_comm, Int.add_mul_ediv_right _ _ (by omega), Int.ediv_eq_zero_of_lt hx0 hxw, Int.zero_add]

/-- A point of the grid is the remainder and the quotient of its index (20_memory.md R51). -/
theorem cellIndex_inj {w h : Nat} {x y x' y' : Int} (hp : PointIn w h x y) (hp' : PointIn w h x' y')
    (heq : cellIndex w x y = cellIndex w x' y') : x = x' ∧ y = y' :=
  ⟨by rw [← cellIndex_emod hp, heq, cellIndex_emod hp'], by rw [← cellIndex_ediv hp, heq, cellIndex_ediv hp']⟩

/-- Along one driving axis, steppers that plot the same cell stand at the same driving coordinate. -/
theorem plotL_inj {w h : Nat} {color : Word} {l l' : LineRegs} (hi : l.Inv w h) (hi' : l'.Inv w h)
    (haxis : l.overY = l'.overY) (heq : plotL w color l = plotL w color l') : l.maj = l'.maj := by
  have h0 := cellIndex_bounds hi.pointIn
  have h0' := cellIndex_bounds hi'.pointIn
  have hidx : (cellIndex w (lineColumn l) (lineRow l)).toNat = (cellIndex w (lineColumn l') (lineRow l')).toNat :=
    congrArg Prod.fst heq
  obtain ⟨hcol, hrow⟩ := cellIndex_inj hi.pointIn hi'.pointIn (by omega)
  rw [lineColumn, lineColumn, ← haxis] at hcol
  rw [lineRow, lineRow, ← haxis] at hrow
  cases ho : l.overY with
  | false => simpa only [ho, Bool.false_eq_true, if_false] using hcol
  | true => simpa only [ho, if_true] using hrow

/-- The driving coordinate tells the points of the path apart. -/
theorem plotL_path_nodup {w h n : Nat} {l : LineRegs} (color : Word) (hi : l.Inv w h) (hn : l.maj + n = l.last) :
    ((List.range (n + 1)).map fun k => plotL w color (lineStep^[k] l)).Nodup := by
  refine List.nodup_range.map_on fun j hj k hk heq => ?_
  rw [List.mem_range] at hj hk
  have hmaj := plotL_inj (lineStep_iterate_inv hi (by omega)) (lineStep_iterate_inv hi (by omega))
    (by rw [lineStep_iterate_eq lineStep_overY, lineStep_iterate_eq lineStep_overY]) heq
  rw [lineStep_iterate_maj, lineStep_iterate_maj] at hmaj
  omega

/-- Settles O19: in bounds, `LINE` latches the stepper, whose path `performs_line_from` draws, `plotL_path_nodup`
keeps from meeting a cell twice and `lineWrites_eq_plotL` puts in closed form; out of bounds, it raises its error. -/
theorem lineWritesClosedFormOrRaises : Obligations.LineWritesClosedFormOrRaises := by
  intro s hidle
  have hop : s.op = none := busy_eq_false.mp hidle
  refine ⟨fun h1 h2 => ?_, fun hout => exec_line_rejected hop hout⟩
  have hinv := lineSetup_inv h1 h2
  have hlast := lineSetup_last s.arg0.toInt s.arg1.toInt s.arg2.toInt s.arg3.toInt
  rw [lineWrites_eq_plotL]
  exact ⟨_, exec_line_drawn hop h1 h2, plotL_path_nodup s.color hinv hlast, fun hin =>
    performs_line_from (s := beginOperation (.line _) s) hin (beginOperation_op _ _) hinv hlast⟩

end Sys2Proof.Machine
end

section
/-! PROOFS. `RECT`: the sweep row by row, left to right (43_rectangle.md R145, R147, R148). -/

namespace Sys2Proof.Machine

/-! ### The registers at the `n`-th write (43_rectangle.md R148) -/

theorem rectAdvance_next_column {q : RectRegs} (h : q.rx < q.rx2) :
    rectAdvance q = some { q with rx := q.rx + 1 } := if_pos h

theorem rectAdvance_next_row {q : RectRegs} (hx : ¬ q.rx < q.rx2) (hy : q.ry < q.ry2) :
    rectAdvance q = some { q with rx := q.rx1, ry := q.ry + 1 } := by
  rw [rectAdvance, if_neg hx, if_pos hy]

theorem rectAdvance_end {q : RectRegs} (hx : ¬ q.rx < q.rx2) (hy : ¬ q.ry < q.ry2) : rectAdvance q = none := by
  rw [rectAdvance, if_neg hx, if_neg hy]

/-- How many columns, or rows, lie between `a` and `b`, both included. -/
def extent (a b : Int) : Nat := (b - a + 1).toNat

theorem extent_cast {a b : Int} (h : a ≤ b) : (extent a b : Int) = b - a + 1 := Int.toNat_of_nonneg (by omega)

theorem extent_pos {a b : Int} (h : a ≤ b) : 0 < extent a b := Int.pos_iff_toNat_pos.mp (by omega)

/-- The working registers at the `n`-th write. -/
def rectAt (x1 y1 x2 y2 : Int) (n : Nat) : RectRegs :=
  { rectSetup x1 y1 x2 y2 with
    rx := x1 + (n % extent x1 x2 : Nat)
    ry := y1 + (n / extent x1 x2 : Nat) }

section Sweep

variable {w h : Nat} {x1 y1 x2 y2 : Int} {n : Nat}

theorem rectAt_zero : rectAt x1 y1 x2 y2 0 = rectSetup x1 y1 x2 y2 := by
  simp [rectAt, rectSetup]

theorem rectSetup_ordered (hi : (rectSetup x1 y1 x2 y2).Inv w h) : x1 ≤ x2 ∧ y1 ≤ y2 := by
  obtain ⟨-, hx, hy, -, -⟩ := hi
  exact ⟨hx, hy⟩

theorem rectAt_inv (hi : (rectSetup x1 y1 x2 y2).Inv w h) (hn : n < extent x1 x2 * extent y1 y2) :
    (rectAt x1 y1 x2 y2 n).Inv w h := by
  obtain ⟨-, hx, hy, hp1, hp2⟩ := hi
  simp only [rectSetup, PointIn] at hx hy hp1 hp2
  have hcolumns := extent_cast hx
  have hrows := extent_cast hy
  have hcol : n % extent x1 x2 < extent x1 x2 := Nat.mod_lt n (extent_pos hx)
  have hrow : n / extent x1 x2 < extent y1 y2 := Nat.div_lt_of_lt_mul hn
  simp only [RectRegs.Inv, rectAt, rectSetup, PointIn]
  generalize n / extent x1 x2 = row at hrow ⊢
  omega

/-- In the last column the next write begins a row: its number is a multiple of the row's length. -/
theorem succ_eq_mul_of_mod_last {c : Nat} (hlast : n % c + 1 = c) : n + 1 = c * (n / c + 1) := by
  calc n + 1 = c * (n / c) + (n % c + 1) := by rw [← Nat.add_assoc, Nat.div_add_mod]
    _ = c * (n / c + 1) := by rw [hlast, Nat.mul_succ]

theorem rectAdvance_rectAt_within_row (hx : x1 ≤ x2) (hcol : n % extent x1 x2 + 1 < extent x1 x2) :
    rectAdvance (rectAt x1 y1 x2 y2 n) = some (rectAt x1 y1 x2 y2 (n + 1)) := by
  have hcolumns := extent_cast hx
  obtain ⟨hdiv, hmod⟩ : (n + 1) / extent x1 x2 = n / extent x1 x2 ∧
      (n + 1) % extent x1 x2 = n % extent x1 x2 + 1 :=
    (Nat.div_mod_unique (by omega)).mpr ⟨by rw [Nat.add_right_comm, Nat.mod_add_div], hcol⟩
  rw [rectAdvance_next_column (by simp only [rectAt, rectSetup]; omega)]
  simp only [rectAt, rectSetup, hdiv, hmod]
  push_cast
  rw [Int.add_assoc]

theorem rectAdvance_rectAt_row_end (hx : x1 ≤ x2) (hy : y1 ≤ y2) (hcol : n % extent x1 x2 + 1 = extent x1 x2)
    (hn : n + 1 < extent x1 x2 * extent y1 y2) :
    rectAdvance (rectAt x1 y1 x2 y2 n) = some (rectAt x1 y1 x2 y2 (n + 1)) := by
  have hcolumns := extent_cast hx
  have hrows := extent_cast hy
  have hsucc := succ_eq_mul_of_mod_last hcol
  have hrow : n / extent x1 x2 + 1 < extent y1 y2 := Nat.lt_of_mul_lt_mul_left (hsucc ▸ hn)
  rw [rectAdvance_next_row (by simp only [rectAt, rectSetup]; omega) (by simp only [rectAt, rectSetup]; omega)]
  simp only [rectAt, rectSetup, hsucc, Nat.mul_mod_right, Nat.mul_div_cancel_left _ (extent_pos hx)]
  push_cast
  rw [Int.add_zero, Int.add_assoc]

theorem rectAdvance_rectAt (hx : x1 ≤ x2) (hy : y1 ≤ y2) (hn : n + 1 < extent x1 x2 * extent y1 y2) :
    rectAdvance (rectAt x1 y1 x2 y2 n) = some (rectAt x1 y1 x2 y2 (n + 1)) := by
  have hlt : n % extent x1 x2 < extent x1 x2 := Nat.mod_lt n (extent_pos hx)
  obtain hcol | hcol : n % extent x1 x2 + 1 < extent x1 x2 ∨ n % extent x1 x2 + 1 = extent x1 x2 := by omega
  · exact rectAdvance_rectAt_within_row hx hcol
  · exact rectAdvance_rectAt_row_end hx hy hcol hn

/-- The last write is in the last column of the last row. -/
theorem rectAdvance_rectAt_last (hx : x1 ≤ x2) (hy : y1 ≤ y2) (hn : n + 1 = extent x1 x2 * extent y1 y2) :
    rectAdvance (rectAt x1 y1 x2 y2 n) = none := by
  have hcolumns := extent_cast hx
  have hrows := extent_cast hy
  obtain ⟨r, hr⟩ : ∃ r, extent y1 y2 = r + 1 := Nat.exists_eq_add_one.mpr (extent_pos hy)
  rw [hr, Nat.mul_succ] at hn
  obtain ⟨hdiv, hmod⟩ : n / extent x1 x2 = r ∧ n % extent x1 x2 = extent x1 x2 - 1 :=
    (Nat.div_mod_unique (by omega)).mpr ⟨by omega, by omega⟩
  exact rectAdvance_end (by simp only [rectAt, rectSetup]; omega) (by simp only [rectAt, rectSetup]; omega)

end Sweep

/-! ### The writes of the sweep -/

/-- The write of the cell at which the registers stand (43_rectangle.md R146). -/
def plotRect (w : Nat) (color : Word) (q : RectRegs) : Nat × Word := plotWrite w color q.rx q.ry

theorem rectWrites_eq_plotRect (w : Nat) (color : Word) (x1 y1 x2 y2 : Int) :
    rectWrites w color x1 y1 x2 y2 =
      (List.range (extent x1 x2 * extent y1 y2)).map fun n => plotRect w color (rectAt x1 y1 x2 y2 n) := rfl

theorem rect_index_inside {s : State} {x1 y1 x2 y2 : Int} {n : Nat}
    (hi : (rectSetup x1 y1 x2 y2).Inv s.width s.height) (hn : n < extent x1 x2 * extent y1 y2) :
    0 ≤ (Operation.rect (rectAt x1 y1 x2 y2 n)).index s.width ∧
      (Operation.rect (rectAt x1 y1 x2 y2 n)).index s.width < s.size :=
  operation_index_inside (o := .rect _) (rectAt_inv hi hn)

/-- A sweep that stands at its `n`-th write with `m` more after it performs them all, in order. -/
theorem performs_rect_from {s : State} {x1 y1 x2 y2 : Int} {n m : Nat} (hin : s.inputs = [])
    (hop : s.op = some (.rect (rectAt x1 y1 x2 y2 n))) (hi : (rectSetup x1 y1 x2 y2).Inv s.width s.height)
    (hcount : n + 1 + m = extent x1 x2 * extent y1 y2) :
    Performs ((List.range' n (m + 1)).map fun k => plotRect s.width s.color (rectAt x1 y1 x2 y2 k)) s := by
  obtain ⟨hx, hy⟩ := rectSetup_ordered hi
  induction m generalizing s n with
  | zero =>
    have hlast : (Operation.rect (rectAt x1 y1 x2 y2 n)).advance s.size = none := by
      rw [Operation.advance, rectAdvance_rectAt_last hx hy hcount, Option.map_none]
    exact performs_last hin hop (rect_index_inside hi (by omega)) hlast
  | succ m ih =>
    have hnext : (Operation.rect (rectAt x1 y1 x2 y2 n)).advance s.size =
        some (.rect (rectAt x1 y1 x2 y2 (n + 1))) := by
      rw [Operation.advance, rectAdvance_rectAt hx hy (by omega), Option.map_some]
    exact performs_cons hin hop (rect_index_inside hi (by omega)) hnext
      (ih (s := wrote s _ _ _) hin rfl hi (by omega))

/-- A sweep latched at its first cell performs `RECT`'s writes. -/
theorem performs_rect {s : State} {x1 y1 x2 y2 : Int} (hin : s.inputs = [])
    (hop : s.op = some (.rect (rectSetup x1 y1 x2 y2))) (hi : (rectSetup x1 y1 x2 y2).Inv s.width s.height) :
    Performs (rectWrites s.width s.color x1 y1 x2 y2) s := by
  obtain ⟨hx, hy⟩ := rectSetup_ordered hi
  obtain ⟨m, hm⟩ : ∃ m, extent x1 x2 * extent y1 y2 = m + 1 :=
    Nat.exists_eq_add_one.mpr (Nat.mul_pos (extent_pos hx) (extent_pos hy))
  rw [← rectAt_zero] at hop
  rw [rectWrites_eq_plotRect, hm, List.range_eq_range']
  exact performs_rect_from hin hop hi (by omega)

/-! ### No cell twice -/

theorem plotWrite_inj {w h : Nat} {color : Word} {x y x' y' : Int} (hp : PointIn w h x y) (hp' : PointIn w h x' y')
    (heq : plotWrite w color x y = plotWrite w color x' y') : x = x' ∧ y = y' := by
  have h0 := cellIndex_bounds hp
  have h0' := cellIndex_bounds hp'
  have hidx : (cellIndex w x y).toNat = (cellIndex w x' y').toNat := congrArg Prod.fst heq
  exact cellIndex_inj hp hp' (by omega)

theorem RectRegs.Inv.pointIn {w h : Nat} {q : RectRegs} (hi : q.Inv w h) : PointIn w h q.rx q.ry := by
  obtain ⟨hlo, hhi, hrow, hp1, hp2⟩ := hi
  simp only [PointIn] at hp1 hp2 ⊢
  omega

/-- Remainder and quotient by the row's length tell the writes of the sweep apart. -/
theorem rectWrites_nodup {w h : Nat} {x1 y1 x2 y2 : Int} (color : Word) (hi : (rectSetup x1 y1 x2 y2).Inv w h) :
    (rectWrites w color x1 y1 x2 y2).Nodup := by
  rw [rectWrites_eq_plotRect]
  refine List.nodup_range.map_on fun j hj k hk heq => ?_
  rw [List.mem_range] at hj hk
  obtain ⟨hcol, hrow⟩ := plotWrite_inj (rectAt_inv hi hj).pointIn (rectAt_inv hi hk).pointIn heq
  have hmod : j % extent x1 x2 = k % extent x1 x2 := Int.ofNat_inj.mp (Int.add_left_cancel hcol)
  have hdiv : j / extent x1 x2 = k / extent x1 x2 := Int.ofNat_inj.mp (Int.add_left_cancel hrow)
  rw [← Nat.div_add_mod j (extent x1 x2), hmod, hdiv, Nat.div_add_mod]

/-- Settles O20: with ordered corners in bounds, `RECT` latches the sweep, whose writes `performs_rect` gives and
`rectWrites_nodup` keeps from meeting a cell twice; otherwise it raises its error. -/
theorem rectWritesRowMajorOrRaises : Obligations.RectWritesRowMajorOrRaises := by
  intro s hidle
  have hop : s.op = none := busy_eq_false.mp hidle
  refine ⟨fun hx hy h1 h2 => ?_, fun hout => exec_rect_rejected hop hout⟩
  have hinv := rectSetup_inv hx hy h1 h2
  exact ⟨_, exec_rect_drawn hop hx hy h1 h2, rectWrites_nodup s.color hinv, fun hin =>
    performs_rect (s := beginOperation (.rect _) s) hin (beginOperation_op _ _) hinv⟩

end Sys2Proof.Machine
end

section
/-! PROOFS. `CIRCLE`: the four spans of every pair, in order, and its two errors (44_circle.md R155 to R161). -/

namespace Sys2Proof.Machine

/-! ### A span from its first to its last column (43_rectangle.md R146) -/

/-- The span's writes by their number, with each number read as an integer. -/
theorem hspanWrites_eq_map (w : Nat) (color : Word) (row xa xb : Int) :
    hspanWrites w color row xa xb =
      (List.range (xb - xa + 1).toNat).map fun n : Nat => plotWrite w color (xa + n) row := by
  simp [hspanWrites, ← List.map_eq_flatMap, Function.comp_def]

theorem hspanWrites_of_lt {w : Nat} {color : Word} {row xa xb : Int} (h : xb < xa) :
    hspanWrites w color row xa xb = [] := by
  have hcount : (xb - xa + 1).toNat = 0 := by omega
  rw [hspanWrites_eq_map, hcount, List.range_zero, List.map_nil]

theorem hspanWrites_of_le {w : Nat} {color : Word} {row xa xb : Int} (h : xa ≤ xb) :
    hspanWrites w color row xa xb = plotWrite w color xa row :: hspanWrites w color row (xa + 1) xb := by
  have hcount : (xb - xa + 1).toNat = (xb - (xa + 1) + 1).toNat + 1 := by omega
  have hshift (n : Nat) : xa + ((n : Int) + 1) = xa + 1 + n := by omega
  rw [hspanWrites_eq_map, hspanWrites_eq_map, hcount, List.range_succ_eq_map, List.map_cons, List.map_map]
  simp [Function.comp_def, hshift]

/-! ### The registers at the end of a span (44_circle.md R155, R161) -/

/-- The last column of a span: `CX` plus its half-width. -/
def CircleRegs.lastColumn (c : CircleRegs) : Int := c.cx + spanHalf c.span c.d1 c.d2

/-- The registers of the pair in `c` at the last column of a span. -/
def leaveSpan (span : SpanId) (c : CircleRegs) : CircleRegs :=
  { c with span := span, sx := c.cx + spanHalf span c.d1 c.d2 }

/-- The registers at the first write of the next pair, while `D2 > D1`. -/
def nextPair (c : CircleRegs) : Option CircleRegs :=
  if c.d2 > c.d1 then some (enterSpan .upperFirst (circleGenStep c)) else none

theorem circleAdvance_within_span {c : CircleRegs} (h : c.sx < c.lastColumn) :
    circleAdvance c = some { c with sx := c.sx + 1 } := if_pos h

theorem circleAdvance_leave_upperFirst (c : CircleRegs) :
    circleAdvance (leaveSpan .upperFirst c) = some (enterSpan .lowerFirst c) := if_neg (Int.lt_irrefl _)

theorem circleAdvance_leave_lowerFirst (c : CircleRegs) :
    circleAdvance (leaveSpan .lowerFirst c) = some (enterSpan .upperSecond c) := if_neg (Int.lt_irrefl _)

theorem circleAdvance_leave_upperSecond (c : CircleRegs) :
    circleAdvance (leaveSpan .upperSecond c) = some (enterSpan .lowerSecond c) := if_neg (Int.lt_irrefl _)

/-- The generator reads neither the span nor the column. -/
theorem enterSpan_genStep_leaveSpan (sp sp' : SpanId) (c : CircleRegs) :
    enterSpan sp (circleGenStep (leaveSpan sp' c)) = enterSpan sp (circleGenStep c) := by
  by_cases hv : c.var < 0
  · simp [enterSpan, circleGenStep, leaveSpan, hv]
  · simp [enterSpan, circleGenStep, leaveSpan, hv]

theorem circleAdvance_leave_lowerSecond (c : CircleRegs) :
    circleAdvance (leaveSpan .lowerSecond c) = nextPair c := by
  rw [nextPair, ← enterSpan_genStep_leaveSpan .upperFirst .lowerSecond c]
  exact if_neg (Int.lt_irrefl _)

theorem circleGenStep_centre (c : CircleRegs) : (circleGenStep c).cx = c.cx ∧ (circleGenStep c).cy = c.cy := by
  unfold circleGenStep
  split <;> exact ⟨rfl, rfl⟩

/-! ### The writes that stand before the rasterizer -/

/-- The write of the cell at which the registers stand. -/
def plotCircle (w : Nat) (color : Word) (c : CircleRegs) : Nat × Word :=
  plotWrite w color c.sx (spanRow c.span c.cy c.d1 c.d2)

/-- From the given registers on, `circleAdvance` leads through exactly these writes; without registers the
rasterizer has ended. -/
inductive CircleDraws (w : Nat) (color : Word) : Option CircleRegs → List (Nat × Word) → Prop where
  | ended : CircleDraws w color none []
  | write {c : CircleRegs} {ws : List (Nat × Word)} (rest : CircleDraws w color (circleAdvance c) ws) :
      CircleDraws w color (some c) (plotCircle w color c :: ws)

/-- A device alone with a rasterizer inside the grid performs the writes that stand before it. -/
theorem performs_of_circleDraws {s : State} {c : CircleRegs} {ws : List (Nat × Word)} (hin : s.inputs = [])
    (hop : s.op = some (.circle c)) (hi : c.Inv s.width s.height)
    (hd : CircleDraws s.width s.color (some c) ws) : Performs ws s := by
  induction ws generalizing s c with
  | nil => cases hd
  | cons p ws ih =>
    obtain _ | hrest := hd
    have hinside := operation_index_inside (o := .circle c) hi
    cases hadv : circleAdvance c with
    | none =>
      rw [hadv] at hrest
      cases hrest
      exact performs_last hin hop hinside (by rw [Operation.advance, hadv, Option.map_none])
    | some e =>
      rw [hadv] at hrest
      exact performs_cons hin hop hinside (by rw [Operation.advance, hadv, Option.map_some])
        (ih (s := wrote s _ _ _) hin rfl (circleAdvance_inv hadv hi) hrest)

section Draws

variable {w : Nat} {color : Word} {ws : List (Nat × Word)} {c : CircleRegs}

/-- The rest of a span, `n` columns after the current one, and what comes after it. -/
theorem circleDraws_row {n : Nat} (hn : c.sx + n = c.lastColumn)
    (hrest : CircleDraws w color (circleAdvance (leaveSpan c.span c)) ws) :
    CircleDraws w color (some c)
      (hspanWrites w color (spanRow c.span c.cy c.d1 c.d2) c.sx c.lastColumn ++ ws) := by
  induction n generalizing c with
  | zero =>
    have hsx : c.sx = c.lastColumn := by omega
    have hleave : leaveSpan c.span c = c := by rw [leaveSpan, ← CircleRegs.lastColumn, ← hsx]
    rw [hspanWrites_of_le hsx.le, hspanWrites_of_lt (by omega)]
    exact .write (hleave ▸ hrest)
  | succ n ih =>
    have hlt : c.sx < c.lastColumn := by omega
    rw [hspanWrites_of_le hlt.le]
    refine .write ?_
    rw [circleAdvance_within_span hlt]
    refine ih (c := { c with sx := c.sx + 1 }) ?_ hrest
    simp only [CircleRegs.lastColumn] at hn ⊢
    omega

/-- A whole span and what comes after it. -/
theorem circleDraws_span (sp : SpanId) (hhalf : 0 ≤ spanHalf sp c.d1 c.d2)
    (hrest : CircleDraws w color (circleAdvance (leaveSpan sp c)) ws) :
    CircleDraws w color (some (enterSpan sp c))
      (hspanWrites w color (spanRow sp c.cy c.d1 c.d2) (c.cx - spanHalf sp c.d1 c.d2)
        (c.cx + spanHalf sp c.d1 c.d2) ++ ws) := by
  obtain ⟨n, hn⟩ := Int.eq_ofNat_of_zero_le hhalf
  refine circleDraws_row (c := enterSpan sp c) (n := 2 * n) ?_ hrest
  simp only [enterSpan, CircleRegs.lastColumn, hn]
  omega

/-- The four spans of a pair, each handing over to the next. -/
theorem circleDraws_spans4 (h1 : 0 ≤ c.d1) (h2 : 0 ≤ c.d2) (hrest : CircleDraws w color (nextPair c) ws) :
    CircleDraws w color (some (enterSpan .upperFirst c))
      (spans4Writes w color c.cx c.cy c.octant ++ ws) := by
  rw [← circleAdvance_leave_lowerSecond] at hrest
  have d3 := circleDraws_span .lowerSecond h2 hrest
  rw [← circleAdvance_leave_upperSecond] at d3
  have d2 := circleDraws_span .upperSecond h2 d3
  rw [← circleAdvance_leave_lowerFirst] at d2
  have d1 := circleDraws_span .lowerFirst h1 d2
  rw [← circleAdvance_leave_upperFirst] at d1
  have d0 := circleDraws_span .upperFirst h1 d1
  rwa [spans4Writes, List.append_assoc, List.append_assoc, List.append_assoc]

/-- The spans of the last pair. -/
theorem circleDraws_last_pair (h1 : 0 ≤ c.d1) (h2 : 0 ≤ c.d2) (hend : c.d2 ≤ c.d1) :
    CircleDraws w color (some (enterSpan .upperFirst c)) ([c.octant].flatMap (spans4Writes w color c.cx c.cy)) := by
  have hnext : nextPair c = none := if_neg (by omega)
  rw [List.flatMap_cons, List.flatMap_nil]
  exact circleDraws_spans4 h1 h2 (hnext ▸ .ended)

/-- With enough fuel for the generator, the spans of every pair from the current one on. -/
theorem circleDraws_octantsFrom {r : Int} {fuel : Nat} (hi : OctantInv r c.octant) (hfuel : r ≤ c.d1 + fuel) :
    CircleDraws w color (some (enterSpan .upperFirst c))
      ((octantsFrom fuel c.octant).flatMap (spans4Writes w color c.cx c.cy)) := by
  induction fuel generalizing c with
  | zero =>
    have hle : c.d2 ≤ r := hi.d2_le
    exact circleDraws_last_pair hi.d1_nonneg hi.d2_nonneg (by omega)
  | succ n ih =>
    unfold octantsFrom
    split
    · rename_i hlt
      have hnext : nextPair c = some (enterSpan .upperFirst (circleGenStep c)) := if_pos hlt
      have hstep : (circleGenStep c).octant = octantStep c.octant := octant_semiconj_genStep c
      have hd1 : (circleGenStep c).d1 = c.d1 + 1 := (congrArg Prod.fst hstep).trans (octantStep_d1 c.octant)
      obtain ⟨hcx, hcy⟩ := circleGenStep_centre c
      have hrest := ih (c := circleGenStep c) (hstep ▸ octantStep_inv hlt hi) (by omega)
      rw [hcx, hcy, hstep, ← hnext] at hrest
      rw [List.flatMap_cons]
      exact circleDraws_spans4 hi.d1_nonneg hi.d2_nonneg hrest
    · rename_i hend
      exact circleDraws_last_pair hi.d1_nonneg hi.d2_nonneg (Int.not_lt.mp hend)

end Draws

/-- Settles O21: in bounds, `CIRCLE` latches the rasterizer, before which the spans of every pair stand
(`circleDraws_octantsFrom`), and the device performs them (`performs_of_circleDraws`). -/
theorem circleWritesOctantSpans : Obligations.CircleWritesOctantSpans := by
  intro s hidle hr h1 h2
  have hcentre : PointIn s.width s.height s.arg0.toInt s.arg1.toInt := by
    simp only [PointIn] at h1 h2 ⊢
    omega
  refine ⟨_, exec_circle_drawn (busy_eq_false.mp hidle) hcentre hr h1 h2, fun hin => ?_⟩
  refine performs_of_circleDraws (s := beginOperation (.circle _) s) hin (beginOperation_op _ _)
    (circleSetup_inv hr h1 h2) ?_
  exact circleDraws_octantsFrom (octantInv_start hr) (by simp only; omega)

/-- Settles O22: the centre is checked before the radius, and each rejection only raises its error. -/
theorem circleRaisesCenterThenRadius : Obligations.CircleRaisesCenterThenRadius := by
  intro s hidle
  have hop : s.op = none := busy_eq_false.mp hidle
  refine ⟨exec_circle_center_rejected hop, fun hcentre hbad => exec_circle_radius_rejected hop hcentre ?_⟩
  simp only [PointIn]
  omega

end Sys2Proof.Machine
end

section
/-! PROOFS. `IllegalCommand`: a word outside the opcode map raises the error and nothing else (30_encoding.md R72,
60_exceptions.md R179). -/

namespace Sys2Proof.Machine

/-- Every command's word is one of `0x0001 .. 0x0008` (30_encoding.md R71). -/
theorem encode_range (i : Instr) : 1 ≤ (encode i).toNat ∧ (encode i).toNat ≤ 8 := by
  cases i <;> decide

/-- Only the words `0x0001 .. 0x0008` decode to a command (30_encoding.md R72). -/
theorem range_of_decode {w : Word} {i : Instr} (h : decode w = .ok i) : 1 ≤ w.toNat ∧ w.toNat ≤ 8 :=
  encode_decode h ▸ encode_range i

theorem issue_illegal {w : Word} (s : State) (h : ¬(1 ≤ w.toNat ∧ w.toNat ≤ 8)) :
    issue w s = .next (raiseError .illegalCommand s) := by
  obtain ⟨i, hdecode, -⟩ | ⟨e, -, hraise⟩ := issue_cases w s
  · exact absurd (range_of_decode hdecode) h
  · exact hraise

/-- Settles O4: an idle block issues the word, and the issue of a word that is no command raises `IllegalCommand`. -/
theorem illegalWordRaisesIllegalCommand : Obligations.IllegalWordRaisesIllegalCommand := by
  intro s w rest hin hidle hillegal
  calc step s = hostWrite 0x0 w { s with inputs := rest } := step_input hin
    _ = issue w { s with inputs := rest } := hostWrite_idle 0x0 w hidle
    _ = .next (raiseError .illegalCommand { s with inputs := rest }) := issue_illegal _ hillegal

end Sys2Proof.Machine
end

section
/-! PROOFS. The decoder and the encoder are inverse, and the words between them are `0x0001 .. 0x0008`
(30_encoding.md R70 to R72). -/

namespace Sys2Proof.Machine

/-- Each of the words `0x0001 .. 0x0008` is some command's word (30_encoding.md R71). -/
theorem exists_encode_of_range {w : Word} (h : 1 ≤ w.toNat ∧ w.toNat ≤ 8) : ∃ i, encode i = w := by
  obtain ⟨hlo, hhi⟩ := h
  have hword : w = BitVec.ofNat 16 w.toNat := by simp
  generalize w.toNat = n at hword hlo hhi
  subst hword
  interval_cases n
  · exact ⟨.clear, rfl⟩
  · exact ⟨.setcolor, rfl⟩
  · exact ⟨.rstcolor, rfl⟩
  · exact ⟨.pack, rfl⟩
  · exact ⟨.pixel, rfl⟩
  · exact ⟨.line, rfl⟩
  · exact ⟨.rect, rfl⟩
  · exact ⟨.circle, rfl⟩

theorem decode_eq_ok_iff (w : Word) (i : Instr) : decode w = .ok i ↔ w = encode i :=
  ⟨fun h => (encode_decode h).symm, fun h => h ▸ decode_encode i⟩

theorem decode_error_iff (w : Word) : (∃ e, decode w = .error e) ↔ ¬(1 ≤ w.toNat ∧ w.toNat ≤ 8) := by
  constructor
  · rintro ⟨e, he⟩ hrange
    obtain ⟨i, rfl⟩ := exists_encode_of_range hrange
    cases he.symm.trans (decode_encode i)
  · intro hout
    cases hdecode : decode w with
    | ok i => exact absurd (range_of_decode hdecode) hout
    | error e => exact ⟨e, rfl⟩

/-- Settles O2: the round trip in both directions, and every word of the range is a command's. -/
theorem decodeInvertsEncode : Obligations.DecodeInvertsEncode :=
  ⟨decode_eq_ok_iff, decode_error_iff⟩

/-- Settles O1: the eight command words are the encodings of the commands, and the four illegal words evaluate to
their rejections. -/
theorem tableWordsDecode : Obligations.TableWordsDecode :=
  ⟨decode_encode .clear, decode_encode .setcolor, decode_encode .rstcolor, decode_encode .pack,
    decode_encode .pixel, decode_encode .line, decode_encode .rect, decode_encode .circle, rfl, rfl, rfl, rfl⟩

end Sys2Proof.Machine
end

section
/-! PROOFS. Single steps of the agents: the issue of a command, the display port, the reset input, the idle block
and the `STATUS` word (10_state.md R25, 20_memory.md R57, R58, 30_encoding.md R78, 70_reset_and_hazards.md R200). -/

namespace Sys2Proof.Machine

/-- The host's write of a command's word to `CMD` of an idle block is the command's acceptance step. -/
theorem hostWrite_command {s : State} {w : Word} {i : Instr} (hidle : s.op = none) (hdecode : decode w = .ok i) :
    hostWrite 0x0 w s = exec i s := by
  calc hostWrite 0x0 w s = issue w s := hostWrite_idle 0x0 w hidle
    _ = exec i s := by rw [issue, hdecode]

theorem step_command {s : State} {w : Word} {rest : List Input} {i : Instr}
    (hin : s.inputs = .hostWrite 0x0 w :: rest) (hidle : s.op = none) (hdecode : decode w = .ok i) :
    step s = exec i { s with inputs := rest } :=
  (step_input hin).trans (hostWrite_command hidle hdecode)

/-- Settles O3: both parts are `step_command`, the second at the state `placeCommand` makes. -/
theorem stepRunsDecodedCommand : Obligations.StepRunsDecodedCommand :=
  ⟨fun _ _ _ _ => step_command, fun s _ _ _ hdecode =>
    step_command (placeCommand_inputs _ s) (placeCommand_op _ s) hdecode⟩

/-- Settles O56: a mnemonic is the write of its command's word, which decodes to it; `WR` and `RD` are their
transactions. -/
theorem scriptStatementsAreTransactions : Obligations.ScriptStatementsAreTransactions := by
  intro s rest
  refine ⟨fun i hin hidle => ?_, fun reg v hin => step_input hin, fun reg hin => step_hostRead hin⟩
  exact step_command hin (busy_eq_false.mp hidle) (decode_encode i)

/-- Settles O9: the free value is the answer. -/
theorem displayReadOutOfRangeChangesNothing : Obligations.DisplayReadOutOfRangeChangesNothing := by
  intro s a rest hin hout
  refine ⟨Config.freeWord s.draws, ?_⟩
  rw [step_input hin, perform]
  rcases fbRead_cases a { s with inputs := rest } with ⟨hlt, -⟩ | ⟨-, he⟩
  · exact absurd hlt hout.not_gt
  · exact he

/-- Settles O10: the display's acknowledgement is `ackDirty`. -/
theorem ackDirtyClearsOnlyDirty : Obligations.AckDirtyClearsOnlyDirty :=
  fun _ _ hin => step_input hin

/-- Settles O12: the block's fields of the state after `applyReset` are those of `State.resetOf`. -/
theorem resetInputAbandonsEverything : Obligations.ResetInputAbandonsEverything := by
  intro s rest hin
  exact ⟨_, step_input hin, fun _ => rfl, rfl, rfl, rfl, rfl, rfl, rfl, rfl, rfl, rfl, rfl, rfl, rfl, rfl⟩

/-- Settles O37: the turn is the device's, which is idle. -/
theorem idleMachineKeepsItsState : Obligations.IdleMachineKeepsItsState := by
  intro s hin hidle
  rw [step_alone hin, deviceStep_idle (busy_eq_false.mp hidle)]

theorem statusWord_lt_eight (s : State) : (statusWord s).toNat < 2 ^ 3 := by
  rw [statusWord_toNat]
  have hdirty := Bool.toNat_le s.dirty
  have herr := Bool.toNat_le s.err
  have hbusy := Bool.toNat_le s.busy
  omega

/-- Bit by bit, `STATUS` is `{0[15:3], DIRTY, ERR, BUSY}` (10_state.md R25). -/
theorem statusWord_getLsbD (s : State) (j : Nat) : (statusWord s).getLsbD j =
    if j = 0 then s.busy else if j = 1 then s.err else if j = 2 then s.dirty else false := by
  match j with
  | 0 | 1 | 2 =>
    unfold statusWord
    cases s.dirty <;> cases s.err <;> cases s.busy <;> rfl
  | j + 3 =>
    have hhigh : (statusWord s).toNat < 2 ^ (j + 3) :=
      (statusWord_lt_eight s).trans_le (Nat.pow_le_pow_right (by decide) (by omega))
    exact Nat.testBit_lt_two_pow hhigh

/-- Settles O45: the level outputs read the three bits of `statusWord_getLsbD`. -/
theorem statusWordAndLevelOutputs : Obligations.StatusWordAndLevelOutputs := by
  intro s
  refine ⟨statusWord_getLsbD s, ?_⟩
  rw [statusWord_getLsbD, statusWord_getLsbD, statusWord_getLsbD]
  rfl

end Sys2Proof.Machine
end

section
/-! PROOFS. What the acceptance step of a drawing command does: it latches its own operation or raises its own
error (40_framebuffer_color.md R90, 41_validate_pixel.md R110, R116, 10_state.md R40). -/

namespace Sys2Proof.Machine

/-- The errors a command's validator can raise (60_exceptions.md R176). -/
def validatorErrors : Instr → List ErrorKind
  | .clear => []
  | .setcolor => []
  | .rstcolor => []
  | .pack => []
  | .pixel => [.illegalPixelCoordinates]
  | .line => [.illegalLineCoordinates]
  | .rect => [.illegalRectangleCoordinates]
  | .circle => [.illegalCircleCenter, .illegalCircleRadius]

/-- The command latches an operation of its own opcode and does nothing else. -/
def Latches (i : Instr) (s : State) : Prop :=
  ∃ o : Operation, o.opcode = i.opcode ∧ exec i s = .next (beginOperation o s)

/-- The command raises one of its validator's errors and does nothing else. -/
def Rejects (i : Instr) (s : State) : Prop :=
  ∃ e ∈ validatorErrors i, exec i s = .next (raiseError e s)

theorem exec_pixel_outcome {s : State} (hidle : s.op = none) : Latches .pixel s ∨ Rejects .pixel s := by
  by_cases hp : PointIn s.width s.height s.arg0.toInt s.arg1.toInt
  · exact .inl ⟨_, rfl, exec_pixel_drawn hidle hp⟩
  · exact .inr ⟨_, by simp [validatorErrors], exec_pixel_rejected hidle hp⟩

theorem exec_line_outcome {s : State} (hidle : s.op = none) : Latches .line s ∨ Rejects .line s := by
  by_cases hp : PointIn s.width s.height s.arg0.toInt s.arg1.toInt ∧
      PointIn s.width s.height s.arg2.toInt s.arg3.toInt
  · obtain ⟨h1, h2⟩ := hp
    exact .inl ⟨_, rfl, exec_line_drawn hidle h1 h2⟩
  · exact .inr ⟨_, by simp [validatorErrors], exec_line_rejected hidle hp⟩

theorem exec_rect_outcome {s : State} (hidle : s.op = none) : Latches .rect s ∨ Rejects .rect s := by
  by_cases hp : s.arg0.toInt ≤ s.arg2.toInt ∧ s.arg1.toInt ≤ s.arg3.toInt ∧
      PointIn s.width s.height s.arg0.toInt s.arg1.toInt ∧ PointIn s.width s.height s.arg2.toInt s.arg3.toInt
  · obtain ⟨hx, hy, h1, h2⟩ := hp
    exact .inl ⟨_, rfl, exec_rect_drawn hidle hx hy h1 h2⟩
  · exact .inr ⟨_, by simp [validatorErrors], exec_rect_rejected hidle hp⟩

theorem exec_circle_outcome {s : State} (hidle : s.op = none) : Latches .circle s ∨ Rejects .circle s := by
  by_cases hc : PointIn s.width s.height s.arg0.toInt s.arg1.toInt
  · by_cases hr : 0 ≤ s.arg2.toInt ∧
        PointIn s.width s.height (s.arg0.toInt - s.arg2.toInt) (s.arg1.toInt - s.arg2.toInt) ∧
        PointIn s.width s.height (s.arg0.toInt + s.arg2.toInt) (s.arg1.toInt + s.arg2.toInt)
    · obtain ⟨h0, h1, h2⟩ := hr
      exact .inl ⟨_, rfl, exec_circle_drawn hidle hc h0 h1 h2⟩
    · exact .inr ⟨_, by simp [validatorErrors], exec_circle_radius_rejected hidle hc hr⟩
  · exact .inr ⟨_, by simp [validatorErrors], exec_circle_center_rejected hidle hc⟩

/-- A command with a validator, accepted by an idle block, latches its operation or raises its error. -/
theorem exec_validated_outcome {i : Instr} {s : State} (hi : Validates i) (hidle : s.op = none) :
    Latches i s ∨ Rejects i s := by
  rcases hi with rfl | rfl | rfl | rfl
  · exact exec_pixel_outcome hidle
  · exact exec_line_outcome hidle
  · exact exec_rect_outcome hidle
  · exact exec_circle_outcome hidle

theorem pixel_error_code {e : ErrorKind} (he : e ∈ validatorErrors .pixel) : e.code = 7 := by
  rw [List.mem_singleton.mp he, ErrorKind.code]

theorem line_error_code {e : ErrorKind} (he : e ∈ validatorErrors .line) : e.code = 8 := by
  rw [List.mem_singleton.mp he, ErrorKind.code]

theorem rect_error_code {e : ErrorKind} (he : e ∈ validatorErrors .rect) : e.code = 9 := by
  rw [List.mem_singleton.mp he, ErrorKind.code]

theorem circle_error_code {e : ErrorKind} (he : e ∈ validatorErrors .circle) : e.code = 12 ∨ e.code = 13 := by
  obtain rfl | rfl := List.mem_pair.mp he
  · exact .inl rfl
  · exact .inr rfl

/-- Settles O34: the two outcomes of `exec_validated_outcome`, with the codes of each validator's errors. -/
theorem drawingIsWholeOrNothing : Obligations.DrawingIsWholeOrNothing := by
  intro i s hidle hi
  rcases exec_validated_outcome hi (busy_eq_false.mp hidle) with ⟨o, -, he⟩ | ⟨e, hmem, he⟩
  · exact .inl ⟨o, he⟩
  · refine .inr ⟨e.code, he, ?_, ?_, ?_, ?_⟩ <;> rintro rfl
    · exact pixel_error_code hmem
    · exact line_error_code hmem
    · exact rect_error_code hmem
    · exact circle_error_code hmem

/-- What a command that writes cells latches on an idle block has the command's opcode. -/
theorem exec_writes_opcode {i : Instr} {s t : State} {o : Operation} (hi : Writes i) (hidle : s.op = none)
    (h : exec i s = .next t) (ho : t.op = some o) : o.opcode = i.opcode := by
  have houtcome : Latches i s ∨ Rejects i s := by
    rcases hi with rfl | hi
    · exact .inl ⟨_, rfl, exec_clear hidle⟩
    · exact exec_validated_outcome hi hidle
  rcases houtcome with ⟨p, hp, he⟩ | ⟨e, -, he⟩
  · obtain rfl := Host.Outcome.next.inj (he.symm.trans h)
    obtain rfl : p = o := Option.some.inj ho
    exact hp
  · obtain rfl := Host.Outcome.next.inj (he.symm.trans h)
    rw [raiseError_op, hidle] at ho
    cases ho

/-- The operation moves on inside its own primitive (10_state.md R40). -/
theorem advance_opcode {o p : Operation} {size : Nat} (h : o.advance size = some p) : p.opcode = o.opcode := by
  cases o with
  | clear idx =>
    obtain ⟨j, -, rfl⟩ := Option.map_eq_some_iff.mp h
    rfl
  | pixel x y => cases h
  | line l =>
    obtain ⟨k, -, rfl⟩ := Option.map_eq_some_iff.mp h
    rfl
  | rect q =>
    obtain ⟨r, -, rfl⟩ := Option.map_eq_some_iff.mp h
    rfl
  | circle c =>
    obtain ⟨e, -, rfl⟩ := Option.map_eq_some_iff.mp h
    rfl

/-- Settles O44: a command that writes no cell latches nothing, and one that does latches its own operation. -/
theorem operationKeepsItsOpcode : Obligations.OperationKeepsItsOpcode := by
  refine ⟨fun i s t o hbusy h ho => ?_, fun o p size => advance_opcode⟩
  have hidle : s.op = none := busy_eq_false.mp hbusy
  by_cases hi : Writes i
  · exact exec_writes_opcode hi hidle h ho
  · rw [exec_op h hi, hidle] at ho
    cases ho

/-- No acceptance step faults or is refused. -/
theorem exec_answers (i : Instr) (s : State) : ∃ t, exec i s = .next t := by
  rcases exec_cases i s with he | ⟨-, -, he⟩ | ⟨-, -, he⟩ | ⟨-, -, he⟩ | ⟨o, -, -, -, he⟩ | ⟨e, -, -, he⟩ <;>
    exact ⟨_, he⟩

/-- Settles O53: every case of `exec_cases` answers a next state; a busy block does not accept. -/
theorem everyCommandAnswers : Obligations.EveryCommandAnswers := by
  intro i s
  refine ⟨exec_answers i s, fun hbusy => ?_⟩
  obtain ⟨o, ho⟩ := Option.isSome_iff_exists.mp hbusy
  exact exec_busy i ho

end Sys2Proof.Machine
end

section
/-! PROOFS. Everything a step of the machine can do to the block, said once, and the whole-machine rules that follow
(00_scope.md R11, R14, 10_state.md R24, R26, R27, 20_memory.md R52, 70_reset_and_hazards.md R202). -/

namespace Sys2Proof.Machine

/-! ### The effect of a step -/

theorem not_idle_of_busy {s : State} (hbusy : s.busy = true) : s.op ≠ none := by
  rwa [State.busy, Option.isSome_iff_ne_none] at hbusy

/-- From `s` to `t` nothing of the block changes but `DIRTY` and, while `BUSY = 0`, the operand registers. -/
structure Quiet (s t : State) : Prop where
  width : t.width = s.width := by rfl
  height : t.height = s.height := by rfl
  fb : t.fb = s.fb := by rfl
  color : t.color = s.color := by rfl
  op : t.op = s.op := by rfl
  err : t.err = s.err := by rfl
  errcode : t.errcode = s.errcode := by rfl
  events : t.events = s.events := by rfl
  args_of_busy : s.busy = true → t.arg0 = s.arg0 ∧ t.arg1 = s.arg1 ∧ t.arg2 = s.arg2 ∧ t.arg3 = s.arg3

theorem Quiet.busy {s t : State} (hq : Quiet s t) : t.busy = s.busy := by
  rw [State.busy, State.busy, hq.op]

/-- The state after the reset input (70_reset_and_hazards.md R200, R201). -/
def afterReset (s : State) : State :=
  { State.resetOf s.width s.height with
    inputs := s.inputs, hostData := s.hostData, displayData := s.displayData, draws := s.draws }

theorem applyReset_eq (s : State) : applyReset s = .next (afterReset s) := rfl

/-- The turn is the device's: named in the queue, or nobody is named. -/
def DeviceTurn (s : State) : Prop := s.inputs = [] ∨ ∃ rest, s.inputs = .device :: rest

/-- Everything a step from `s` that answers a next state can do. -/
inductive StepEffect (s : State) : State → Prop where
  /-- Nothing: a read, a discarded write, an idle device, or a change of `DIRTY` or an operand alone. -/
  | quiet {t : State} (h : Quiet s t) : StepEffect s t
  /-- The device performs one write of the operation in progress. -/
  | deviceWrote {o : Operation} (turn : DeviceTurn s) (busy : s.op = some o)
      (inside : 0 ≤ o.index s.width ∧ o.index s.width < s.size) :
      StepEffect s (wrote (dequeued s) (o.index s.width).toNat (o.value s.color) (o.advance s.size))
  /-- The host issues `SETCOLOR` or `RSTCOLOR`. -/
  | colored {w : Word} {rest : List Input} {i : Instr} (c : Word) (input : s.inputs = .hostWrite 0x0 w :: rest)
      (idle : s.op = none) (decoded : decode w = .ok i) (command : i = .setcolor ∨ i = .rstcolor) :
      StepEffect s { dequeued s with color := c }
  /-- The host issues a command that latches an operation inside the framebuffer. -/
  | latched {w : Word} {rest : List Input} {i : Instr} {o : Operation} (input : s.inputs = .hostWrite 0x0 w :: rest)
      (idle : s.op = none) (decoded : decode w = .ok i) (command : Writes i)
      (inv : 0 < s.size → o.Inv s.width s.height) : StepEffect s (beginOperation o (dequeued s))
  /-- The host issues a word that raises an error. -/
  | raised {w : Word} {rest : List Input} (e : ErrorKind) (input : s.inputs = .hostWrite 0x0 w :: rest)
      (idle : s.op = none) : StepEffect s (raiseError e (dequeued s))
  /-- The host acknowledges an error. -/
  | acknowledged {v : Word} {rest : List Input} (input : s.inputs = .hostWrite 0x6 v :: rest) (idle : s.op = none)
      (bit : v.getLsbD 1 = true) : StepEffect s (acknowledgeError (dequeued s))
  /-- The reset input. -/
  | reset {rest : List Input} (input : s.inputs = .rst :: rest) : StepEffect s (afterReset (dequeued s))

theorem deviceStep_effect {s t : State} (hturn : DeviceTurn s) (h : deviceStep (dequeued s) = .next t) :
    StepEffect s t := by
  rcases deviceStep_cases h with ⟨-, rfl⟩ | ⟨o, hbusy, hinside, rfl⟩
  · exact .quiet { args_of_busy := fun _ => ⟨rfl, rfl, rfl, rfl⟩ }
  · exact .deviceWrote hturn hbusy hinside

theorem exec_effect {s t : State} {w : Word} {rest : List Input} {i : Instr}
    (hin : s.inputs = .hostWrite 0x0 w :: rest) (hdecode : decode w = .ok i)
    (h : exec i (dequeued s) = .next t) : StepEffect s t := by
  rcases exec_cases i (dequeued s) with he | ⟨hi, hidle, he⟩ | ⟨hi, hidle, he⟩ | ⟨-, hidle, he⟩ |
    ⟨o, hidle, hi, hinv, he⟩ | ⟨e, hidle, -, he⟩ <;>
    obtain rfl := Host.Outcome.next.inj (he.symm.trans h)
  · exact .quiet { args_of_busy := fun _ => ⟨rfl, rfl, rfl, rfl⟩ }
  · exact .colored _ hin hidle hdecode (.inl hi)
  · exact .colored _ hin hidle hdecode (.inr hi)
  · exact .quiet { args_of_busy := fun hbusy => absurd hidle (not_idle_of_busy hbusy) }
  · exact .latched hin hidle hdecode hi hinv
  · exact .raised e hin hidle

theorem hostWrite_effect {s t : State} {off : RegOffset} {v : Word} {rest : List Input}
    (hin : s.inputs = .hostWrite off v :: rest) (h : hostWrite off v (dequeued s) = .next t) : StepEffect s t := by
  rcases hostWrite_next h with rfl | ⟨hidle, ⟨rfl, i, hdecode, he⟩ | ⟨rfl, -, rfl⟩ | ⟨-, rfl⟩ | ⟨-, rfl⟩ |
    ⟨-, rfl⟩ | ⟨-, rfl⟩ | ⟨rfl, hbit, rfl⟩⟩
  case inl => exact .quiet { args_of_busy := fun _ => ⟨rfl, rfl, rfl, rfl⟩ }
  case inr.inl => exact exec_effect hin hdecode he
  case inr.inr.inl => exact .raised _ hin hidle
  case inr.inr.inr.inr.inr.inr.inr => exact .acknowledged hin hidle hbit
  all_goals exact .quiet { args_of_busy := fun hbusy => absurd hidle (not_idle_of_busy hbusy) }

theorem fbRead_quiet {s t : State} {a : Nat} (h : fbRead a (dequeued s) = .next t) : Quiet s t := by
  rcases fbRead_cases a (dequeued s) with ⟨-, he⟩ | ⟨-, he⟩ <;>
    obtain rfl := Host.Outcome.next.inj (he.symm.trans h) <;>
    exact { args_of_busy := fun _ => ⟨rfl, rfl, rfl, rfl⟩ }

theorem step_effect {s t : State} (h : step s = .next t) : StepEffect s t := by
  rcases step_next h with ⟨hturn, hd⟩ | ⟨off, v, rest, hin, hw⟩ | ⟨off, rest, -, rfl⟩ | ⟨rest, -, rfl⟩ |
    ⟨a, rest, -, hr⟩ | ⟨rest, -, rfl⟩ | ⟨rest, hin, hr⟩
  · exact deviceStep_effect hturn hd
  · exact hostWrite_effect hin hw
  · exact .quiet { args_of_busy := fun _ => ⟨rfl, rfl, rfl, rfl⟩ }
  · exact .quiet { args_of_busy := fun _ => ⟨rfl, rfl, rfl, rfl⟩ }
  · exact .quiet (fbRead_quiet hr)
  · exact .quiet { args_of_busy := fun _ => ⟨rfl, rfl, rfl, rfl⟩ }
  · obtain rfl := Host.Outcome.next.inj ((applyReset_eq (dequeued s)).symm.trans hr)
    exact .reset hin

/-! ### Whole-machine rules -/

/-- Settles O46: no effect touches the geometry. -/
theorem geometryNeverChanges : Obligations.GeometryNeverChanges := by
  intro s t h
  have hgeom : t.width = s.width ∧ t.height = s.height := by
    cases step_effect h with
    | quiet hq => exact ⟨hq.width, hq.height⟩
    | _ => exact ⟨rfl, rfl⟩
  obtain ⟨hwidth, hheight⟩ := hgeom
  exact ⟨hwidth, hheight, by rw [State.size, State.size, hwidth, hheight]⟩

/-- Settles O38: only a device write and the reset input touch `FB`. -/
theorem cellsChangeOnlyByDeviceOrReset : Obligations.CellsChangeOnlyByDeviceOrReset := by
  rintro s t h ⟨a, ha⟩
  cases step_effect h with
  | quiet hq => exact absurd (by rw [hq.fb]) ha
  | deviceWrote hturn hbusy => exact .inl ⟨busy_some hbusy, hturn⟩
  | reset hin => exact .inr ⟨_, hin⟩
  | _ => exact absurd rfl ha

/-- Settles O39: on a busy block a step of the host or the display can only be quiet. -/
theorem hostAndDisplayCannotDisturb : Obligations.HostAndDisplayCannotDisturb := by
  intro s t i rest h hbusy hin hdevice hrst
  cases step_effect h with
  | quiet hq =>
    obtain ⟨h0, h1, h2, h3⟩ := hq.args_of_busy hbusy
    exact ⟨hq.op, hq.fb, hq.color, h0, h1, h2, h3, hq.err, hq.errcode, hq.events, hq.width, hq.height⟩
  | deviceWrote hturn =>
    rcases hturn with hnone | ⟨r, hr⟩
    · simp [hnone] at hin
    · exact absurd (List.cons.inj (hin.symm.trans hr)).1 hdevice
  | reset hr => exact absurd (List.cons.inj (hin.symm.trans hr)).1 hrst
  | colored _ _ hidle => exact absurd hidle (not_idle_of_busy hbusy)
  | latched _ hidle => exact absurd hidle (not_idle_of_busy hbusy)
  | raised _ _ hidle => exact absurd hidle (not_idle_of_busy hbusy)
  | acknowledged _ hidle => exact absurd hidle (not_idle_of_busy hbusy)

/-- Settles O40: only the colour commands and the reset input touch `COLOR`. -/
theorem colorChangesOnlyByColorCommands : Obligations.ColorChangesOnlyByColorCommands := by
  intro s t h hne
  cases step_effect h with
  | quiet hq => exact absurd hq.color hne
  | colored c hin hidle hdecode hi =>
    refine .inl ⟨busy_none hidle, _, _, hin, ?_⟩
    rcases hi with rfl | rfl
    · exact .inl hdecode
    · exact .inr hdecode
  | reset hin => exact .inr ⟨_, hin⟩
  | _ => exact absurd rfl hne

/-- Settles O41: only a raised error sets `ERR`, only the acknowledgement and the reset input clear it. -/
theorem errIsStickyUntilAcknowledged : Obligations.ErrIsStickyUntilAcknowledged := by
  intro s t h
  refine ⟨fun hbefore hafter => ?_, fun hbefore hafter => ?_⟩
  · cases step_effect h with
    | acknowledged hin hidle hbit => exact .inl ⟨busy_none hidle, _, _, hin, hbit⟩
    | reset hin => exact .inr ⟨_, hin⟩
    | raised => cases hafter
    | quiet hq => cases hbefore.symm.trans (hq.err.symm.trans hafter)
    | _ => cases hbefore.symm.trans hafter
  · cases step_effect h with
    | raised e hin hidle => exact ⟨busy_none hidle, ⟨_, _, hin⟩, rfl⟩
    | acknowledged => cases hafter
    | reset => cases hafter
    | quiet hq => cases hbefore.symm.trans (hq.err.symm.trans hafter)
    | _ => cases hbefore.symm.trans hafter

/-- Settles O43: `BUSY` rises when an operation is latched and falls at its last write or by reset. -/
theorem busyMarksTheOperation : Obligations.BusyMarksTheOperation := by
  intro s t h
  refine ⟨fun hbefore hafter => ?_, fun hbefore hafter => ?_⟩
  · cases step_effect h with
    | latched hin _ hdecode hi => exact ⟨_, _, _, hin, hdecode, hi⟩
    | deviceWrote _ hbusy => cases hbefore.symm.trans (busy_some hbusy)
    | reset => cases hafter
    | quiet hq => cases hbefore.symm.trans (hq.busy.symm.trans hafter)
    | _ => cases hbefore.symm.trans hafter
  · cases step_effect h with
    | deviceWrote hturn hbusy => exact .inl ⟨hturn, _, hbusy, busy_eq_false.mp hafter⟩
    | reset hin => exact .inr ⟨_, hin⟩
    | latched => cases hafter
    | quiet hq => cases hbefore.symm.trans (hq.busy.symm.trans hafter)
    | _ => cases hbefore.symm.trans hafter

/-- Settles O47: a device write and a raised error each emit one event, and the other effects none. -/
theorem stepEmitsAtMostOneEvent : Obligations.StepEmitsAtMostOneEvent := by
  intro s t h
  cases step_effect h with
  | quiet hq => exact .inl hq.events
  | deviceWrote => exact .inr (.inl ⟨_, rfl⟩)
  | raised => exact .inr (.inl ⟨_, rfl⟩)
  | reset hin => exact .inr (.inr ⟨⟨_, hin⟩, rfl⟩)
  | _ => exact .inl rfl

end Sys2Proof.Machine
end

section
/-! PROOFS. The invariants hold at reset and every step keeps them; no step of a safe state faults
(10_state.md R29, R35, R45, 20_memory.md R52, R55, R63). -/

namespace Sys2Proof.Machine

/-! ### A safe state -/

/-- The reset state of a legal geometry is safe: it has no cell listed and no operation. -/
theorem resetOf_inv {w h : Nat} (hgeom : geometryWf w h = true) : (State.resetOf w h).Inv :=
  ⟨hgeom, wf_nil, fun _ hp => absurd hp List.not_mem_nil, fun _ ho => nomatch ho⟩

/-- Settles O48: the reset state is safe at every legal geometry, and the one that `State.reset` names is legal. -/
theorem resetMeetsInvariant : Obligations.ResetMeetsInvariant := by
  have hreset (w h : Nat) (hgeom : geometryWf w h = true) :
      (State.resetOf w h).Inv ∧ (State.resetOf w h).ErrorAgrees ∧ (State.resetOf w h).CellsAgree :=
    ⟨resetOf_inv hgeom, ⟨.inl rfl, fun _ => rfl, fun _ => rfl⟩, fun _ => rfl⟩
  exact ⟨hreset, hreset _ _ (by decide)⟩

theorem Quiet.inv {s t : State} (hq : Quiet s t) (hs : s.Inv) : t.Inv := by
  rw [State.Inv, State.size] at *
  rwa [hq.width, hq.height, hq.fb, hq.op]

/-- The write that an operation addresses leaves a safe state: it lists no cell but its own, which is inside the
framebuffer, and the operation stays inside it. -/
theorem wrote_inv {s : State} {o : Operation} (hs : s.Inv) (ho : s.op = some o) :
    (wrote s (o.index s.width).toNat (o.value s.color) (o.advance s.size)).Inv := by
  obtain ⟨hgeom, hwf, hcells, hop⟩ := hs
  obtain ⟨hlo, hhi⟩ := operation_index_inside (hop o ho)
  refine ⟨hgeom, write_wf _ _ hwf, fun p hp => ?_, fun q hq => operation_advance_inv (hop o ho) hq⟩
  have hsize : s.size = s.width * s.height := rfl
  rcases mem_write hp with hp | hp
  · show p.1 < s.size
    omega
  · exact hcells p hp

/-- An operation latched inside the framebuffer leaves a safe state. -/
theorem beginOperation_inv {s : State} {o : Operation} (hs : s.Inv)
    (ho : 0 < s.size → o.Inv s.width s.height) : (beginOperation o s).Inv := by
  obtain ⟨hgeom, hwf, hcells, -⟩ := hs
  refine ⟨hgeom, hwf, hcells, fun p hp => ?_⟩
  obtain rfl : o = p := Option.some.inj hp
  exact ho (size_pos hgeom)

/-- Settles O49: a device write keeps the cells and the operation inside the framebuffer, a latched operation is
inside it, and no other effect touches what the invariant speaks of. -/
theorem stepKeepsInvariant : Obligations.StepKeepsInvariant := by
  intro s t hs h
  cases step_effect h with
  | quiet hq => exact hq.inv hs
  | deviceWrote _ hbusy => exact wrote_inv (s := dequeued s) hs hbusy
  | latched _ _ _ _ hinv => exact beginOperation_inv (s := dequeued s) hs hinv
  | reset =>
    obtain ⟨hgeom, -⟩ := hs
    exact resetOf_inv hgeom
  | _ => exact hs

/-! ### The cells and the trace -/

theorem Quiet.cellsAgree {s t : State} (hq : Quiet s t) (hs : s.CellsAgree) : t.CellsAgree := by
  rw [State.CellsAgree] at *
  rwa [hq.fb, hq.events]

/-- A write and its event keep the agreement: at the cell written both give the value, elsewhere neither counts. -/
theorem wrote_cellsAgree {s : State} (hwf : s.fb.wf = true) (hs : s.CellsAgree) (a : Nat) (v : Word)
    (next : Option Operation) : (wrote s a v next).CellsAgree := by
  intro b
  show (s.fb.write a v).read b = if b = a then v else lastWrite s.events b
  split
  · subst b
    exact read_write_same a v hwf
  · rename_i hba
    rw [read_write_other v hba, hs b]

/-- Settles O51: a device write and its event go together, and no other effect but the reset input, which empties
both, touches a cell or a `Write` event. -/
theorem stepKeepsCellsEqualToTrace : Obligations.StepKeepsCellsEqualToTrace := by
  intro s t hinv hs h
  obtain ⟨-, hwf, -, -⟩ := hinv
  cases step_effect h with
  | quiet hq => exact hq.cellsAgree hs
  | deviceWrote => exact wrote_cellsAgree (s := dequeued s) hwf hs _ _ _
  | reset => exact fun _ => rfl
  | _ => exact hs

/-- Settles O36: the write of `step_device`, inside the framebuffer by the invariant. -/
theorem deviceStepWritesOneCell : Obligations.DeviceStepWritesOneCell := by
  intro s o hinv hin ho
  obtain ⟨-, hwf, -, hop⟩ := hinv
  have hinside := operation_index_inside (hop o ho)
  obtain ⟨a, ha⟩ := Int.eq_ofNat_of_zero_le hinside.1
  have hstep := step_device hin ho hinside
  rw [ha, Int.toNat_natCast] at hstep
  rw [ha] at hinside
  exact ⟨a, ha.symm, Int.ofNat_lt.mp hinside.2, _, hstep, read_write_same a _ hwf,
    fun b hb => read_write_other _ hb s.fb, rfl⟩

/-! ### `ERR` and `ERRCODE` -/

theorem ErrorKind.code_legal (e : ErrorKind) : LegalErrcode e.code := by
  unfold LegalErrcode
  cases e <;> decide

theorem ErrorKind.code_ne_zero (e : ErrorKind) : e.code ≠ 0 := by
  cases e <;> decide

theorem raiseError_errorAgrees (e : ErrorKind) (s : State) : (raiseError e s).ErrorAgrees :=
  ⟨e.code_legal, iff_of_false Bool.noConfusion e.code_ne_zero⟩

theorem Quiet.errorAgrees {s t : State} (hq : Quiet s t) (hs : s.ErrorAgrees) : t.ErrorAgrees := by
  rw [State.ErrorAgrees] at *
  rwa [hq.err, hq.errcode]

/-- Settles O52: `ERR` and `ERRCODE` change together, by a raised error, its acknowledgement or the reset input. -/
theorem stepKeepsErrorCodeConsistent : Obligations.StepKeepsErrorCodeConsistent := by
  intro s t hs h
  cases step_effect h with
  | quiet hq => exact hq.errorAgrees hs
  | raised e => exact raiseError_errorAgrees e _
  | acknowledged => exact ⟨.inl rfl, fun _ => rfl, fun _ => rfl⟩
  | reset => exact ⟨.inl rfl, fun _ => rfl, fun _ => rfl⟩
  | _ => exact hs

/-! ### No step of a safe state faults -/

theorem deviceStep_answers {s : State} (hs : s.Inv) : ∃ t, deviceStep s = .next t := by
  obtain ⟨-, -, -, hop⟩ := hs
  cases ho : s.op with
  | none => exact ⟨_, deviceStep_idle ho⟩
  | some o => exact ⟨_, deviceStep_inside ho (operation_index_inside (hop o ho))⟩

theorem issue_answers (w : Word) (s : State) : ∃ t, issue w s = .next t := by
  rcases issue_cases w s with ⟨i, -, he⟩ | ⟨e, -, he⟩
  · rw [he]
    exact exec_answers i s
  · exact ⟨_, he⟩

theorem hostWrite_answers (off : RegOffset) (v : Word) (s : State) : ∃ t, hostWrite off v s = .next t := by
  rcases hostWrite_cases off v s with he | ⟨-, ⟨-, he⟩ | ⟨-, he⟩ | ⟨-, he⟩ | ⟨-, he⟩ | ⟨-, he⟩ | ⟨-, -, he⟩⟩
  case inr.inl =>
    rw [he]
    exact issue_answers v s
  all_goals exact ⟨_, he⟩

theorem fbRead_answers (a : Nat) (s : State) : ∃ t, fbRead a s = .next t := by
  rcases fbRead_cases a s with ⟨-, he⟩ | ⟨-, he⟩ <;> exact ⟨_, he⟩

theorem perform_answers (i : Input) {s : State} (hs : s.Inv) : ∃ t, perform i s = .next t := by
  cases i with
  | hostWrite off v => exact hostWrite_answers off v s
  | device => exact deviceStep_answers hs
  | fbRead a => exact fbRead_answers a s
  | _ => exact ⟨_, rfl⟩

/-- Settles O50: the device's write is inside the framebuffer by the invariant, and every other agent's step
answers in every state. -/
theorem safeStateAlwaysSteps : Obligations.SafeStateAlwaysSteps := by
  intro s hs
  rcases step_cases s with ⟨-, he⟩ | ⟨i, rest, -, he⟩
  · rw [he]
    exact deviceStep_answers hs
  · rw [he]
    exact perform_answers i hs

end Sys2Proof.Machine
end

section
/-! PROOFS. Every operation ends, and so does `WAIT` (00_scope.md R15, 30_encoding.md R79). -/

namespace Sys2Proof.Machine

/-! ### A rank that every write lowers -/

/-- How many spans of the current pair come after this one. -/
def SpanId.left : SpanId → Nat
  | .upperFirst => 3
  | .lowerFirst => 2
  | .upperSecond => 1
  | .lowerSecond => 0

/-- What is still to do: for a circle the pairs, then the spans of the pair, then the columns of the span; for a
rectangle the rows, then the columns; for a line or a sweep the writes. -/
def Operation.rank (size : Nat) : Operation → Nat ×ₗ Nat ×ₗ Nat
  | .clear idx => toLex (size - idx, toLex (0, 0))
  | .pixel _ _ => toLex (0, toLex (0, 0))
  | .line l => toLex ((l.last - l.maj).toNat, toLex (0, 0))
  | .rect q => toLex ((q.ry2 - q.ry).toNat, toLex ((q.rx2 - q.rx).toNat, 0))
  | .circle c => toLex ((c.d2 - c.d1).toNat, toLex (c.span.left, (c.lastColumn - c.sx).toNat))

theorem clearAdvance_rank {size idx j : Nat} (h : clearAdvance size idx = some j) :
    (Operation.clear j).rank size < (Operation.clear idx).rank size := by
  obtain ⟨rfl, hlt⟩ := clearAdvance_some h
  exact Prod.Lex.left _ _ (by omega)

theorem lineAdvance_rank {l k : LineRegs} (size : Nat) (h : lineAdvance l = some k) :
    (Operation.line k).rank size < (Operation.line l).rank size := by
  obtain ⟨hlt, rfl⟩ := lineAdvance_some h
  refine Prod.Lex.left _ _ ?_
  rw [lineStep_maj, lineStep_last]
  omega

theorem rectAdvance_rank {q r : RectRegs} (size : Nat) (h : rectAdvance q = some r) :
    (Operation.rect r).rank size < (Operation.rect q).rank size := by
  obtain ⟨hlt, rfl⟩ | ⟨-, hlt, rfl⟩ := rectAdvance_some h
  · exact Prod.Lex.right _ (Prod.Lex.left _ _ (by simp only; omega))
  · exact Prod.Lex.left _ _ (by simp only; omega)

/-- The generator closes the distance between `D1` and `D2` (44_circle.md R160). -/
theorem circleGenStep_gap {c : CircleRegs} (h : c.d2 > c.d1) :
    ((circleGenStep c).d2 - (circleGenStep c).d1).toNat < (c.d2 - c.d1).toNat := by
  unfold circleGenStep
  split <;> simp only <;> omega

theorem circleAdvance_rank {c e : CircleRegs} (size : Nat) (h : circleAdvance c = some e) :
    (Operation.circle e).rank size < (Operation.circle c).rank size := by
  have nextSpan {sp : SpanId} (hsp : sp.left < c.span.left) :
      (Operation.circle (enterSpan sp c)).rank size < (Operation.circle c).rank size :=
    Prod.Lex.right _ (Prod.Lex.left _ _ hsp)
  unfold circleAdvance at h
  split at h
  · obtain rfl := Option.some.inj h
    exact Prod.Lex.right _ (Prod.Lex.right _ (by simp only [CircleRegs.lastColumn]; omega))
  · split at h
    case h_4 =>
      split at h
      · rename_i hlt
        obtain rfl := Option.some.inj h
        exact Prod.Lex.left _ _ (circleGenStep_gap hlt)
      · cases h
    all_goals
      rename_i hspan
      obtain rfl := Option.some.inj h
      exact nextSpan (by rw [hspan]; decide)

theorem advance_rank {size : Nat} {o p : Operation} (h : o.advance size = some p) : p.rank size < o.rank size := by
  cases o with
  | clear idx =>
    obtain ⟨j, hj, rfl⟩ := Option.map_eq_some_iff.mp h
    exact clearAdvance_rank hj
  | pixel x y => cases h
  | line l =>
    obtain ⟨k, hk, rfl⟩ := Option.map_eq_some_iff.mp h
    exact lineAdvance_rank size hk
  | rect q =>
    obtain ⟨r, hr, rfl⟩ := Option.map_eq_some_iff.mp h
    exact rectAdvance_rank size hr
  | circle c =>
    obtain ⟨e, he, rfl⟩ := Option.map_eq_some_iff.mp h
    exact circleAdvance_rank size he

/-- Induction over the writes still to do: a claim holds of every state if it holds of the idle ones, and of a busy
one whenever it holds of the states of the same size at the operation's following write. -/
theorem writes_induction {P : State → Prop} (idle : ∀ s, s.op = none → P s)
    (busy : ∀ s o, s.op = some o → (∀ t, t.size = s.size → t.op = o.advance s.size → P t) → P s) (s : State) :
    P s := by
  cases ho : s.op with
  | none => exact idle s ho
  | some o =>
    induction hr : o.rank s.size using WellFoundedLT.induction generalizing s o with
    | ind r ih =>
      subst hr
      refine busy s o ho fun t hsize hop => ?_
      cases hnext : o.advance s.size with
      | none => exact idle t (hop.trans hnext)
      | some p => exact ih _ (by rw [hsize]; exact advance_rank hnext) t p (hop.trans hnext) rfl

/-! ### The device's turns -/

theorem step_of_deviceTurn {s : State} (hturn : DeviceTurn s) : step s = deviceStep (dequeued s) := by
  rcases hturn with hnone | ⟨rest, hin⟩
  · have hsame : dequeued s = s := by
      rw [dequeued, hnone, List.tail_nil, ← hnone]
    rw [step_alone hnone, hsame]
  · rw [step_input hin, dequeued, hin]
    rfl

/-- The device's turn takes a safe operation to its following write. -/
theorem step_operation {s : State} {o : Operation} (hturn : DeviceTurn s) (hs : s.Inv) (ho : s.op = some o) :
    ∃ t, step s = .next t ∧ t.Inv ∧ t.inputs = s.inputs.tail ∧ t.size = s.size ∧ t.op = o.advance s.size := by
  have hinv := wrote_inv (s := dequeued s) hs ho
  obtain ⟨-, -, -, hop⟩ := hs
  have hstep := deviceStep_inside (s := dequeued s) ho (operation_index_inside (hop o ho))
  exact ⟨_, (step_of_deviceTurn hturn).trans hstep, hinv, rfl, rfl, rfl⟩

/-- Settles O54: by induction over the writes still to do, one device step for each. -/
theorem everyOperationTerminates : Obligations.EveryOperationTerminates := by
  intro s
  induction s using writes_induction with
  | idle s ho => exact fun _ hin => ⟨0, s, rfl, busy_none ho, hin⟩
  | busy s o ho ih =>
    intro hs hin
    obtain ⟨u, hstep, hu, huin, husize, huop⟩ := step_operation (.inl hin) hs ho
    rw [hin, List.tail_nil] at huin
    obtain ⟨n, t, hrun, hdone⟩ := ih u husize huop hu huin
    exact ⟨n + 1, t, (run_succ n hstep).trans hrun, hdone⟩

/-! ### `WAIT` -/

/-- A round of `WAIT` reads `STATUS`; on a busy block the device and another round come next (30_encoding.md R79). -/
theorem step_hostWait {s : State} {rest : List Input} (hin : s.inputs = .hostWait :: rest) :
    step s = .next { s with
      inputs := if s.busy then .device :: .hostWait :: rest else rest
      hostData := statusWord s } := by
  rw [step_input hin, perform, hostWait, statusWord_busyBit]
  rfl

/-- On a busy block a round of `WAIT` is two steps, which leave `WAIT` first and the operation at its following
write. -/
theorem run_wait_round {s : State} {o : Operation} {rest : List Input} (hs : s.Inv)
    (hin : s.inputs = .hostWait :: rest) (ho : s.op = some o) :
    ∃ t, t.Inv ∧ t.inputs = .hostWait :: rest ∧ t.size = s.size ∧ t.op = o.advance s.size ∧
      ∀ n, Host.Core.run Sys2Proof.core (n + 2) s = Host.Core.run Sys2Proof.core n t := by
  have hread := step_hostWait hin
  rw [busy_some ho] at hread
  obtain ⟨t, hdevice, ht, htin, htsize, htop⟩ :=
    step_operation (.inr ⟨_, rfl⟩) (stepKeepsInvariant _ _ hs hread) ho
  exact ⟨t, ht, htin, htsize, htop, fun n => (run_succ (n + 1) hread).trans (run_succ n hdevice)⟩

/-- Settles O55: by induction over the writes still to do, one round of `WAIT` for each and a last one that reads the
idle block. -/
theorem waitEndsWithIdleBlock : Obligations.WaitEndsWithIdleBlock := by
  intro s
  induction s using writes_induction with
  | idle s ho =>
    intro rest _ hin
    have hread := step_hostWait hin
    have hidle : s.busy = false := busy_none ho
    rw [hidle] at hread
    exact ⟨1, _, run_succ 0 hread, rfl, hidle, (statusWord_busyBit s).trans hidle⟩
  | busy s o ho ih =>
    intro rest hs hin
    obtain ⟨u, hu, huin, husize, huop, hrun⟩ := run_wait_round hs hin ho
    obtain ⟨n, t, ht, hdone⟩ := ih u husize huop rest hu huin
    exact ⟨n + 2, t, (hrun n).trans ht, hdone⟩

end Sys2Proof.Machine
end

section
/-! PROOFS. The cells: their indices, sequences of writes to them, and the whole framebuffer as a rectangle
(20_memory.md R51, R63, 43_rectangle.md R149). -/

namespace Sys2Proof.Machine

/-- Every index of the framebuffer is that of the point at its remainder and its quotient (20_memory.md R51). -/
theorem exists_point_of_index {w h a : Nat} (ha : a < w * h) :
    PointIn w h (a % w : Nat) (a / w : Nat) ∧ cellIndex w (a % w : Nat) (a / w : Nat) = a := by
  have hcol : a % w < w := Nat.mod_lt a (Nat.pos_of_ne_zero fun hw => by simp [hw] at ha)
  have hrow : a / w < h := Nat.div_lt_of_lt_mul ha
  refine ⟨⟨Int.natCast_nonneg _, Int.ofNat_lt.mpr hcol, Int.natCast_nonneg _, Int.ofNat_lt.mpr hrow⟩, ?_⟩
  rw [cellIndex]
  exact_mod_cast Nat.div_add_mod' a w

/-- Settles O31: the index of a point is inside the framebuffer, tells points apart, and reaches every cell. -/
theorem cellIndexIsBijection : Obligations.CellIndexIsBijection :=
  fun _ _ => ⟨fun _ _ => cellIndex_bounds, fun _ _ _ _ => cellIndex_inj,
    fun _ ha => ⟨_, _, exists_point_of_index ha⟩⟩

theorem applyWrites_append (m : Memory) (ws : List (Nat × Word)) (a : Nat) (v : Word) :
    applyWrites m (ws ++ [(a, v)]) = (applyWrites m ws).write a v := by
  rw [applyWrites, applyWrites, List.foldl_append]
  rfl

/-- Settles O33: by induction from the last write, which is the first that `find?` meets. -/
theorem writeSequenceReadsBackLatest : Obligations.WriteSequenceReadsBackLatest := by
  intro m ws a hwf
  induction ws using List.reverseRecOn with
  | nil => exact ⟨hwf, rfl⟩
  | append_singleton ws p ih =>
    obtain ⟨b, v⟩ := p
    obtain ⟨ihwf, ihread⟩ := ih
    rw [applyWrites_append, List.reverse_concat', List.find?_cons]
    refine ⟨write_wf b v ihwf, ?_⟩
    by_cases hab : b = a
    · subst hab
      simp [read_write_same b v ihwf]
    · rw [read_write_other v (Ne.symm hab), ihread, beq_eq_false_iff_ne.mpr hab]

/-- Settles O30: `W` columns and `H` rows from the origin, so the `n`-th point has index `n`. -/
theorem wholeRectSweepsEveryCell : Obligations.WholeRectSweepsEveryCell := by
  intro w h color hgeom
  have hcolumns : extent 0 (w - 1) = w := by rw [extent]; omega
  have hrows : extent 0 (h - 1) = h := by rw [extent]; omega
  rw [rectWrites_eq_plotRect, hcolumns, hrows]
  refine List.map_congr_left fun n hn => ?_
  obtain ⟨-, hindex⟩ := exists_point_of_index (List.mem_range.mp hn)
  rw [plotRect, rectAt, plotWrite, hcolumns]
  simp only [zero_add, hindex, Int.toNat_natCast]

end Sys2Proof.Machine
end

section
/-! PROOFS. What the line algorithm guarantees: the endpoints' order does not matter, the path is connected inside the
endpoints' box, and straight lines are runs (42_line.md R133 to R135). -/

namespace Sys2Proof.Machine

/-! ### The endpoints' order (42_line.md R134) -/

/-- The setup puts the endpoint with the smaller driving coordinate first; when the driving coordinates are equal the
endpoints are. -/
theorem lineSetup_swap (x1 y1 x2 y2 : Int) : lineSetup x2 y2 x1 y1 = lineSetup x1 y1 x2 y2 := by
  rw [lineSetup, lineSetup, ← Int.natAbs_neg (x1 - x2), ← Int.natAbs_neg (y1 - y2), Int.neg_sub, Int.neg_sub]
  split
  · obtain hlt | hgt : y1 < y2 ∨ y2 < y1 := by omega
    · rw [if_pos hlt, if_neg hlt.le.not_gt]
    · rw [if_neg hgt.le.not_gt, if_pos hgt]
  · obtain hlt | hgt | ⟨rfl, rfl⟩ : x1 < x2 ∨ x2 < x1 ∨ x1 = x2 ∧ y1 = y2 := by omega
    · rw [if_pos hlt, if_neg hlt.le.not_gt]
    · rw [if_neg hgt.le.not_gt, if_pos hgt]
    · rfl

/-- The state with the two endpoints exchanged. -/
def swapEndpoints (s : State) : State :=
  { s with arg0 := s.arg2, arg1 := s.arg3, arg2 := s.arg0, arg3 := s.arg1 }

/-- Settles O23: a busy block accepts neither, the validator is symmetric, and so is the setup. -/
theorem lineIgnoresEndpointOrder : Obligations.LineIgnoresEndpointOrder := by
  intro s
  by_cases hidle : s.op = none
  · by_cases hp : PointIn s.width s.height s.arg0.toInt s.arg1.toInt ∧
        PointIn s.width s.height s.arg2.toInt s.arg3.toInt
    · obtain ⟨h1, h2⟩ := hp
      refine ⟨_, _, _, _, exec_line_drawn hidle h1 h2, ?_⟩
      rw [← lineSetup_swap]
      exact exec_line_drawn (s := swapEndpoints s) hidle h2 h1
    · exact ⟨_, _, _, _, exec_line_rejected hidle hp,
        exec_line_rejected (s := swapEndpoints s) hidle (mt And.symm hp)⟩
  · obtain ⟨o, ho⟩ := Option.ne_none_iff_exists'.mp hidle
    exact ⟨_, _, _, _, exec_busy .line ho, exec_busy (s := swapEndpoints s) .line ho⟩

/-! ### The secondary offset (42_line.md R132) -/

theorem lineOffset_zero (dmaj dmin : Nat) : lineOffset dmaj dmin 0 = 0 := by
  rw [lineOffset, Nat.div_eq_zero_iff]
  omega

theorem lineOffset_of_dmin_zero (dmaj k : Nat) : lineOffset dmaj 0 k = 0 := by
  rw [lineOffset, Nat.div_eq_zero_iff]
  omega

/-- At the last step the whole secondary distance is covered. -/
theorem lineOffset_last {dmaj dmin : Nat} (h : dmin ≤ dmaj) : lineOffset dmaj dmin dmaj = dmin := by
  rcases Nat.eq_zero_or_pos dmaj with rfl | hpos
  · rw [lineOffset_zero, Nat.le_zero.mp h]
  · have hcancel : (dmin : Int) * (2 * dmaj) = dmaj * (2 * dmin) := by ring
    exact lineOffset_eq_of_bounds (by omega) (by omega)

theorem lineOffset_mono (dmaj dmin : Nat) {j k : Nat} (h : j ≤ k) :
    lineOffset dmaj dmin j ≤ lineOffset dmaj dmin k := by
  unfold lineOffset
  gcongr

theorem lineOffset_le {dmaj dmin k : Nat} (h : dmin ≤ dmaj) (hk : k ≤ dmaj) : lineOffset dmaj dmin k ≤ dmin :=
  (lineOffset_mono dmaj dmin hk).trans (lineOffset_last h).le

/-- One step moves the secondary coordinate by at most 1. -/
theorem lineOffset_succ_le {dmaj dmin : Nat} (h : dmin ≤ dmaj) (k : Nat) :
    lineOffset dmaj dmin (k + 1) ≤ lineOffset dmaj dmin k + 1 := by
  rcases Nat.eq_zero_or_pos dmaj with rfl | hpos
  · simp [lineOffset]
  · calc lineOffset dmaj dmin (k + 1)
        ≤ (2 * k * dmin + dmaj + 2 * dmaj) / (2 * dmaj) := Nat.div_le_div_right (by linarith)
      _ = lineOffset dmaj dmin k + 1 := Nat.add_div_right _ (by omega)

/-! ### The path (42_line.md R133) -/

section Path

variable (x1 y1 x2 y2 : Int)

theorem linePoint_ends :
    (linePoint x1 y1 x2 y2 0 = (x1, y1) ∧
      linePoint x1 y1 x2 y2 (max (x2 - x1).natAbs (y2 - y1).natAbs) = (x2, y2)) ∨
    (linePoint x1 y1 x2 y2 0 = (x2, y2) ∧
      linePoint x1 y1 x2 y2 (max (x2 - x1).natAbs (y2 - y1).natAbs) = (x1, y1)) := by
  by_cases haxis : (x2 - x1).natAbs < (y2 - y1).natAbs
  · rw [max_eq_right haxis.le]
    simp only [linePoint, if_pos haxis, lineOffset_zero, lineOffset_last haxis.le]
    split <;> split <;> simp only [Prod.mk.injEq] <;> omega
  · rw [max_eq_left (not_lt.mp haxis)]
    simp only [linePoint, if_neg haxis, lineOffset_zero, lineOffset_last (not_lt.mp haxis)]
    split <;> split <;> simp only [Prod.mk.injEq] <;> omega

theorem linePoint_in_box {k : Nat} (hk : k ≤ max (x2 - x1).natAbs (y2 - y1).natAbs) :
    min x1 x2 ≤ (linePoint x1 y1 x2 y2 k).1 ∧ (linePoint x1 y1 x2 y2 k).1 ≤ max x1 x2 ∧
      min y1 y2 ≤ (linePoint x1 y1 x2 y2 k).2 ∧ (linePoint x1 y1 x2 y2 k).2 ≤ max y1 y2 := by
  by_cases haxis : (x2 - x1).natAbs < (y2 - y1).natAbs
  · rw [max_eq_right haxis.le] at hk
    have hoffset := lineOffset_le haxis.le hk
    simp only [linePoint, if_pos haxis]
    split <;> split <;> simp only <;> omega
  · rw [max_eq_left (not_lt.mp haxis)] at hk
    have hoffset := lineOffset_le (not_lt.mp haxis) hk
    simp only [linePoint, if_neg haxis]
    split <;> split <;> simp only <;> omega

theorem linePoint_succ (k : Nat) :
    if (x2 - x1).natAbs < (y2 - y1).natAbs then
      (linePoint x1 y1 x2 y2 (k + 1)).2 = (linePoint x1 y1 x2 y2 k).2 + 1 ∧
        ((linePoint x1 y1 x2 y2 (k + 1)).1 - (linePoint x1 y1 x2 y2 k).1).natAbs ≤ 1
    else
      (linePoint x1 y1 x2 y2 (k + 1)).1 = (linePoint x1 y1 x2 y2 k).1 + 1 ∧
        ((linePoint x1 y1 x2 y2 (k + 1)).2 - (linePoint x1 y1 x2 y2 k).2).natAbs ≤ 1 := by
  by_cases haxis : (x2 - x1).natAbs < (y2 - y1).natAbs
  · have hlo := lineOffset_mono (y2 - y1).natAbs (x2 - x1).natAbs (Nat.le_add_right k 1)
    have hhi := lineOffset_succ_le haxis.le k
    simp only [linePoint, if_pos haxis]
    split <;> split <;> simp only <;> omega
  · have hlo := lineOffset_mono (x2 - x1).natAbs (y2 - y1).natAbs (Nat.le_add_right k 1)
    have hhi := lineOffset_succ_le (not_lt.mp haxis) k
    simp only [linePoint, if_neg haxis]
    split <;> split <;> simp only <;> omega

end Path

/-- Settles O24: the offset goes from 0 to the secondary distance, never beyond it, by steps of at most 1. -/
theorem linePathIsConnected : Obligations.LinePathIsConnected :=
  fun x1 y1 x2 y2 => ⟨linePoint_ends x1 y1 x2 y2, fun _ => linePoint_in_box x1 y1 x2 y2,
    fun k _ => linePoint_succ x1 y1 x2 y2 k⟩

/-! ### Straight lines (42_line.md R135) -/

theorem linePoint_horizontal (x1 x2 y : Int) (k : Nat) : linePoint x1 y x2 y k = (min x1 x2 + k, y) := by
  simp only [linePoint, sub_self, Int.natAbs_zero, not_lt_zero, if_false, lineOffset_of_dmin_zero, le_refl, if_true,
    Nat.cast_zero, add_zero]
  split
  · rw [min_eq_left ‹_›]
  · rw [min_eq_right (by omega)]

theorem linePoint_vertical (x y1 y2 : Int) {k : Nat} (hk : k ≤ (y2 - y1).natAbs) :
    linePoint x y1 x y2 k = (x, min y1 y2 + k) := by
  by_cases haxis : 0 < (y2 - y1).natAbs
  · simp only [linePoint, sub_self, Int.natAbs_zero, if_pos haxis, lineOffset_of_dmin_zero, le_refl, if_true,
      Nat.cast_zero, add_zero]
    split
    · rw [min_eq_left ‹_›]
    · rw [min_eq_right (by omega)]
  · obtain ⟨rfl, rfl⟩ : y1 = y2 ∧ k = 0 := by omega
    rw [linePoint_horizontal, min_self, min_self, Nat.cast_zero, add_zero, add_zero]

/-- A list of numbers read as integers, and mapped. -/
theorem map_range_cast {α : Type} (n : Nat) (f : Int → α) :
    (List.map f do let k ← List.range n; pure (k : Int)) = (List.range n).map fun k : Nat => f k := by
  simp [← List.map_eq_flatMap, Function.comp_def]

/-- Settles O25: the points of a straight line, counted from its smaller end. -/
theorem straightLinesAreRuns : Obligations.StraightLinesAreRuns := by
  intro w color x1 y1 x2 y2
  constructor
  · rintro rfl
    have hcount : max (x2 - x1).natAbs (y1 - y1).natAbs + 1 = (max x1 x2 - min x1 x2 + 1).toNat := by omega
    rw [lineWrites, hspanWrites_eq_map, hcount]
    exact List.map_congr_left fun k _ => by rw [linePoint_horizontal]
  · rintro rfl
    have hcount : max (x1 - x1).natAbs (y2 - y1).natAbs = (y2 - y1).natAbs := by omega
    rw [lineWrites, map_range_cast, hcount]
    refine List.map_congr_left fun k hk => ?_
    rw [linePoint_vertical x1 y1 y2 (Nat.lt_succ_iff.mp (List.mem_range.mp hk))]

end Sys2Proof.Machine
end

section
/-! PROOFS. What the circle algorithm guarantees: the number of writes, and the set of cells they touch
(44_circle.md R155, R165, R166). -/

namespace Sys2Proof.Machine

theorem octants_inv {r : Int} {g : Octant} (hr : 0 ≤ r) (hg : g ∈ octants r) : OctantInv r g := by
  obtain ⟨i, hi, rfl⟩ := List.getElem_of_mem hg
  exact octantsFrom_inv (octantInv_start hr) hi

/-! ### The number of writes (44_circle.md R165) -/

theorem length_hspanWrites {w : Nat} {color : Word} {row xa xb : Int} (h : xa ≤ xb) :
    ((hspanWrites w color row xa xb).length : Int) = xb - xa + 1 := by
  rw [hspanWrites_eq_map, List.length_map, List.length_range]
  omega

theorem length_spans4Writes {r : Int} {g : Octant} (w : Nat) (color : Word) (cx cy : Int) (hg : OctantInv r g) :
    ((spans4Writes w color cx cy g).length : Int) = 4 * (g.1 + g.2.1) + 4 := by
  have h1 := hg.d1_nonneg
  have h2 := hg.d2_nonneg
  simp only [spans4Writes, List.length_append, Nat.cast_add]
  rw [length_hspanWrites (by omega), length_hspanWrites (by omega), length_hspanWrites (by omega),
    length_hspanWrites (by omega)]
  ring

theorem length_flatMap_spans4Writes {r : Int} (w : Nat) (color : Word) (cx cy : Int) {gs : List Octant}
    (hgs : ∀ g ∈ gs, OctantInv r g) :
    ((gs.flatMap (spans4Writes w color cx cy)).length : Int) = (gs.map fun g => 4 * (g.1 + g.2.1) + 4).sum := by
  induction gs with
  | nil => rfl
  | cons g gs ih =>
    obtain ⟨hg, hrest⟩ := List.forall_mem_cons.mp hgs
    rw [List.flatMap_cons, List.length_append, Nat.cast_add, length_spans4Writes w color cx cy hg, ih hrest,
      List.map_cons, List.sum_cons]

theorem hspanWrites_singleton (w : Nat) (color : Word) (row x : Int) :
    hspanWrites w color row x x = [plotWrite w color x row] := by
  rw [hspanWrites_of_le le_rfl, hspanWrites_of_lt (by omega)]

/-- Radius 0 has one pair, whose four spans are the centre (44_circle.md R155). -/
theorem circleWrites_zero (w : Nat) (color : Word) (cx cy : Int) :
    circleWrites w color cx cy 0 = List.replicate 4 (plotWrite w color cx cy) := by
  have hpair : octants 0 = [(0, 0, 1)] := rfl
  simp [circleWrites, hpair, spans4Writes, hspanWrites_singleton, List.replicate]

/-- Settles O29: every pair satisfies the generator's invariant, so its spans are not empty and their lengths add
up. -/
theorem circleWriteCount : Obligations.CircleWriteCount :=
  fun w color cx cy _ hr => ⟨length_flatMap_spans4Writes w color cx cy fun _ => octants_inv hr,
    circleWrites_zero w color cx cy⟩

/-! ### The cells written (44_circle.md R166) -/

/-- A pair's four spans cover the offset. -/
def PairTouches (g : Octant) (ex ey : Int) : Prop :=
  (ey.natAbs = g.2.1 ∧ ex.natAbs ≤ g.1) ∨ (ey.natAbs = g.1 ∧ ex.natAbs ≤ g.2.1)

theorem circleTouches_iff (r ex ey : Int) : CircleTouches r ex ey ↔ ∃ g ∈ octants r, PairTouches g ex ey := Iff.rfl

theorem mem_hspanWrites {w : Nat} {color : Word} {row xa xb : Int} {p : Nat × Word} :
    p ∈ hspanWrites w color row xa xb ↔ ∃ x, xa ≤ x ∧ x ≤ xb ∧ plotWrite w color x row = p := by
  rw [hspanWrites_eq_map, List.mem_map]
  constructor
  · rintro ⟨n, hn, rfl⟩
    rw [List.mem_range] at hn
    exact ⟨xa + n, by omega, by omega, rfl⟩
  · rintro ⟨x, hlo, hhi, rfl⟩
    refine ⟨(x - xa).toNat, List.mem_range.mpr (by omega), ?_⟩
    rw [Int.toNat_of_nonneg (by omega), add_sub_cancel]

section Box

variable {w h : Nat} {color : Word} {cx cy r ex ey : Int}

/-- A point that is at most `r` away from the centre along each axis is inside the grid if the box is. -/
theorem pointIn_of_box (h1 : PointIn w h (cx - r) (cy - r)) (h2 : PointIn w h (cx + r) (cy + r))
    (hx : ex.natAbs ≤ r) (hy : ey.natAbs ≤ r) : PointIn w h (cx + ex) (cy + ey) := by
  simp only [PointIn] at h1 h2 ⊢
  omega

/-- A span inside the box writes a cell of the grid exactly when the cell is in its row and among its columns. -/
theorem plotWrite_mem_hspanWrites {row half : Int} (h1 : PointIn w h (cx - r) (cy - r))
    (h2 : PointIn w h (cx + r) (cy + r)) (hp : PointIn w h (cx + ex) (cy + ey)) (hrow : (row - cy).natAbs ≤ r)
    (hhalf : half ≤ r) :
    plotWrite w color (cx + ex) (cy + ey) ∈ hspanWrites w color row (cx - half) (cx + half) ↔
      cy + ey = row ∧ ex.natAbs ≤ half := by
  rw [mem_hspanWrites]
  constructor
  · rintro ⟨x, hlo, hhi, heq⟩
    have hx : PointIn w h (cx + (x - cx)) (cy + (row - cy)) := pointIn_of_box h1 h2 (by omega) hrow
    rw [add_sub_cancel, add_sub_cancel] at hx
    obtain ⟨rfl, rfl⟩ := plotWrite_inj hx hp heq
    exact ⟨rfl, by omega⟩
  · rintro ⟨rfl, habs⟩
    exact ⟨cx + ex, by omega, by omega, rfl⟩

theorem plotWrite_mem_spans4Writes {g : Octant} (h1 : PointIn w h (cx - r) (cy - r))
    (h2 : PointIn w h (cx + r) (cy + r)) (hp : PointIn w h (cx + ex) (cy + ey)) (hg : OctantInv r g) :
    plotWrite w color (cx + ex) (cy + ey) ∈ spans4Writes w color cx cy g ↔ PairTouches g ex ey := by
  obtain ⟨hd1, hd1r, hd2, hd2r, -, -, -, -⟩ := hg
  simp only [spans4Writes, List.mem_append]
  rw [plotWrite_mem_hspanWrites h1 h2 hp (by omega) hd1r, plotWrite_mem_hspanWrites h1 h2 hp (by omega) hd1r,
    plotWrite_mem_hspanWrites h1 h2 hp (by omega) hd2r, plotWrite_mem_hspanWrites h1 h2 hp (by omega) hd2r,
    PairTouches]
  omega

theorem plotWrite_mem_circleWrites (hr : 0 ≤ r) (h1 : PointIn w h (cx - r) (cy - r))
    (h2 : PointIn w h (cx + r) (cy + r)) (hp : PointIn w h (cx + ex) (cy + ey)) :
    plotWrite w color (cx + ex) (cy + ey) ∈ circleWrites w color cx cy r ↔ CircleTouches r ex ey := by
  rw [circleWrites, List.mem_flatMap, circleTouches_iff]
  exact exists_congr fun g => and_congr_right fun hg => plotWrite_mem_spans4Writes h1 h2 hp (octants_inv hr hg)

end Box

/-! ### The shape of the touched set (44_circle.md R166) -/

theorem CircleTouches.neg_column {r ex ey : Int} (ht : CircleTouches r ex ey) : CircleTouches r (-ex) ey := by
  rwa [CircleTouches, Int.natAbs_neg]

theorem CircleTouches.neg_row {r ex ey : Int} (ht : CircleTouches r ex ey) : CircleTouches r ex (-ey) := by
  rwa [CircleTouches, Int.natAbs_neg]

/-- A row is touched towards its middle from every touched cell. -/
theorem CircleTouches.mono {r ex ex' ey : Int} (ht : CircleTouches r ex ey) (hle : ex'.natAbs ≤ ex.natAbs) :
    CircleTouches r ex' ey := by
  obtain ⟨g, hg, hpair⟩ := ht
  exact ⟨g, hg, by omega⟩

theorem CircleTouches.in_box {r ex ey : Int} (hr : 0 ≤ r) (ht : CircleTouches r ex ey) :
    ex.natAbs ≤ r ∧ ey.natAbs ≤ r := by
  obtain ⟨g, hg, hpair⟩ := ht
  obtain ⟨-, hd1r, -, hd2r, -, -, -, -⟩ := octants_inv hr hg
  omega

/-- `D2` falls by at most 1 a step (44_circle.md R160). -/
theorem octantStep_d2 (g : Octant) : g.2.1 - 1 ≤ (octantStep g).2.1 ∧ (octantStep g).2.1 ≤ g.2.1 := by
  unfold octantStep
  split <;> simp only <;> omega

/-- `D1` rises by 1 a step and `D2` falls by at most 1 until they meet, so one of them takes every value between their
first ones. -/
theorem octantsFrom_covers {fuel : Nat} {g : Octant} {n : Int} (hfuel : g.2.1 ≤ g.1 + fuel) (hlo : g.1 ≤ n)
    (hhi : n ≤ g.2.1) : ∃ h ∈ octantsFrom fuel g, h.1 = n ∨ h.2.1 = n := by
  induction fuel generalizing g with
  | zero => exact ⟨g, List.mem_singleton_self g, by omega⟩
  | succ fuel ih =>
    by_cases hend : g.1 = n ∨ g.2.1 = n
    · exact ⟨g, List.mem_of_mem_head? (octantsFrom_head? _ g), hend⟩
    · have hd1 := octantStep_d1 g
      have hd2 := octantStep_d2 g
      obtain ⟨h, hmem, hn⟩ := ih (g := octantStep g) (by omega) (by omega) (by omega)
      refine ⟨h, ?_, hn⟩
      rw [octantsFrom, if_pos (by omega)]
      exact List.mem_cons_of_mem g hmem

/-- Every row of the box is touched at the centre's column. -/
theorem circleTouches_middle {r ey : Int} (hr : 0 ≤ r) (hey : ey.natAbs ≤ r) : CircleTouches r 0 ey := by
  obtain ⟨g, hg, hn⟩ := octantsFrom_covers (fuel := r.toNat) (g := (0, r, 1 - r)) (n := ey.natAbs)
    (by simp only; omega) (by simp only; omega) hey
  obtain ⟨hd1, -, hd2, -, -, -, -, -⟩ := octants_inv hr hg
  exact ⟨g, hg, by omega⟩

/-- The touched cells of a row of the box are one run, up to the farthest of them. -/
theorem circleTouches_run {r ey : Int} (hr : 0 ≤ r) (hey : ey.natAbs ≤ r) :
    ∃ half : Int, 0 ≤ half ∧ half ≤ r ∧ ∀ ex : Int, CircleTouches r ex ey ↔ ex.natAbs ≤ half := by
  have hmiddle := circleTouches_middle hr hey
  have hbounded (ex : Int) (ht : CircleTouches r ex ey) : ex ≤ r := by
    obtain ⟨hle, -⟩ := ht.in_box hr
    omega
  obtain ⟨half, hhalf, hfarthest⟩ := Int.exists_greatest_of_bdd ⟨r, hbounded⟩ ⟨0, hmiddle⟩
  have hnonneg : 0 ≤ half := hfarthest 0 hmiddle
  refine ⟨half, hnonneg, hbounded half hhalf, fun ex => ⟨fun ht => ?_, fun hle => hhalf.mono (by omega)⟩⟩
  exact hfarthest _ (ht.mono (by omega))

/-- Settles O28: the cells written are the offsets the pairs touch, which are symmetric because only absolute values
count, and in each row of the box reach down from the farthest to the middle. -/
theorem circleTouchesSymmetricRuns : Obligations.CircleTouchesSymmetricRuns := by
  intro w h color cx cy r hr h1 h2
  refine ⟨fun ex ey => plotWrite_mem_circleWrites hr h1 h2,
    fun ex ey ht => ⟨ht.neg_column, ht.neg_row, ht.neg_row.neg_column⟩, fun ey => ⟨?_, circleTouches_run hr⟩⟩
  rintro ⟨half, hnonneg, -, hrun⟩
  have hmiddle : CircleTouches r 0 ey := (hrun 0).mpr hnonneg
  exact (hmiddle.in_box hr).2

end Sys2Proof.Machine
end
